-- ==== Sys2Proof/Word.lean ====
section
/-! DEFINITION. The word types of the W4T2 (R4, R6, R7, R39): everything the manual reads as bits. -/

namespace Sys2Proof

/-- A byte of a descriptor, record, frame or memory. -/
abbrev Byte := BitVec 8
/-- A data word of an SRAM (R298). -/
abbrev Word := BitVec 32
/-- A 64-bit register slot, status word or device address (R273, R589). -/
abbrev Dword := BitVec 64
/-- A stored SEC-DED codeword: data in [31:0], check bits in [38:32] (R298). -/
abbrev Codeword := BitVec 39
/-- A command tag (R39). -/
abbrev Tag := BitVec 48
/-- A unit id (R6). -/
abbrev UnitId := BitVec 16
/-- A fault code (R7). -/
abbrev Code := BitVec 16
/-- A 256-bit digest, key or seed. -/
abbrev Digest := BitVec 256

/-- Sparse data by key in one canonical form: keys strictly rising, no entry equal to what an unlisted key reads as. -/
abbrev Sparse (α : Type) := List (Nat × α)

end Sys2Proof
end

