-- ==== Sys2Proof/Config.lean ====
section
/-! DEFINITION. What the manual leaves open: free values and functions with no body, so that nothing can be
proved about their values (log 2). -/

namespace Sys2Proof.Config

/-- Free values of any width up to 64, applied to the state's counter `free` (log 2). -/
opaque freeValue : Nat → Dword

/-- DESIGN CHOICE (log 5). R357: core-local contents are undefined at a step boundary. The argument pair is the
number of the boundary's free draw and the word index. -/
opaque freeCoreWord : Nat → Nat → Word

/-- DESIGN CHOICE (log 23). The 16 random bits of a stochastically rounded moment, for which R342 has no stream: a function of the seed, the step, the tensor, the moment (0 or 1) and the element's logical index, as R69 and R345 ask. -/
opaque momentBits : Digest → Word → Nat → Nat → Nat → BitVec 16

/-- R380: the signature function is internal; it depends only on the bytes written and their order. -/
opaque signature : List Byte → Dword

/-- R220: G(u) for the 23-bit index of u; fixed, within 2 units in the last place, its values not given (log 6). -/
opaque gumbel : BitVec 23 → Word

/-- R558, R559: SLH-DSA-SHA2-128s verification under FIPS 205, outside the spec: public key, message, signature. -/
opaque slhVerify : Digest → List Byte → List Byte → Bool

/-- R565: SLH-DSA-SHA2-128s signature by the identity key derived from the fused secret. -/
opaque slhSign : Digest → List Byte → List Byte

/-- R564: the identity public key derived from the device-unique fused secret. -/
opaque idKey : Digest → Digest

/-- R561: contents of the boot ROM, not given. -/
opaque bootRom : List Byte

/-- R561: fuse contents as bytes, not laid out in the manual: applied to the serial number and the minimum SVN. -/
opaque fuseBytes : Dword → Word → List Byte

/-- R316, R561: the 32-byte form of a retirement record is not laid out; applied to kind, channel or entry, index. -/
opaque retireBytes : Nat → Nat → Nat → List Byte

/-- R538: tempo_rate(i, temperatures), in handshakes per unit of time; not given between the points of R530. -/
opaque tempoRate : Nat → List (BitVec 16) → Nat

/-- R538: fixed_and_leakage(i) in W; given by no rule. -/
opaque fixedAndLeakage : Nat → Nat

/-- R576: the fused floor of a calibration region's setting. -/
opaque calibrationFloor : Nat → Nat

end Sys2Proof.Config
end

