-- ==== Sys2Proof/Syntax.lean ====
section
/-! DEFINITION. The commands of the block: one constructor of `Instr` per row of spec/opcode_table.json, with the
operands the spec gives the step. Engine commands carry their parameters as data, since the encodings of program
images and palette entries are private (R2, log 7). -/

namespace Sys2Proof

/-- The three engine queues of a core (02, "Queues and engines"). -/
inductive Engine where
  | matrix | vector | stream
  deriving DecidableEq, Repr

/-- A core-local memory (R273): scratchpad, accumulator file, operand cache. -/
inductive Space where
  | sp | acc | oc
  deriving DecidableEq, Repr

/-- Element formats of R74, with the unsigned 32-bit integers of R199. -/
inductive Fmt where
  | fp4 | e4m3 | e5m2 | bf16 | fp32 | u32
  deriving DecidableEq, Repr

/-- Group-scale formats (R85, R86). -/
inductive ScaleFmt where
  | e8m0 | ue4m3
  deriving DecidableEq, Repr

/-- Rounding modes (R98). -/
inductive Rounding where
  | rne | rz | sr
  deriving DecidableEq, Repr

/-- May-vary marks (R66). -/
inductive Mark where
  | none | timing | value
  deriving DecidableEq, Repr

/-- A logical core (R39). -/
structure CoreRef where
  tile : Fin 4
  core : Fin 64
  deriving DecidableEq, Repr

/-- An engine of a core, or the update unit of a tile. -/
inductive UnitRef where
  | core (c : CoreRef) (e : Engine)
  | update (t : Fin 4)
  deriving DecidableEq, Repr

/-- A region operand (R45): the region it names, the expected epoch, the byte offset of its base in the region, and its release mark. -/
structure RegionOp where
  space   : Space
  region  : Nat
  epoch   : BitVec 16
  offset  : Nat
  release : Bool
  deriving DecidableEq, Repr

/-- Where an operand lies: a region of the core, or a device address of the stacks (R273). -/
inductive Loc where
  | region (o : RegionOp)
  | stack (a : Dword)
  deriving DecidableEq, Repr

/-- A counter and an amount of a token wait or post (R29). -/
structure TokAmt where
  counter : Fin 32
  amount  : BitVec 8
  deriving DecidableEq, Repr

/-- A token post and its post point (R31): completion, or the release of the operand of that number. -/
structure Post where
  tok : TokAmt
  atRelease : Option Nat
  deriving DecidableEq, Repr

/-- Element format of a quantizer's output (R108). -/
inductive QOut where
  | fp4 | e4m3 | e5m2 | sw2 | sw3
  deriving DecidableEq, Repr

/-- Row-scale source of a quantizing command (R108). -/
inductive RowScaleSrc where
  | none | dynamic | supplied
  deriving DecidableEq, Repr

/-- The parameters of R108. `saffron` is the content of the list operand: an update command carries it, a quantizing command reads it from its list operand. -/
structure QuantParams where
  out        : QOut
  group      : Nat
  scaleFmt   : ScaleFmt
  rowScale   : RowScaleSrc
  rot        : Nat
  rotStream  : BitVec 24
  saffron    : List Nat
  saffronOut : QOut
  round      : Rounding
  roundStream : BitVec 24
  rung       : BitVec 2
  clipLimit  : BitVec 16
  satLimit   : BitVec 16
  lostLimit  : BitVec 16
  deriving DecidableEq, Repr

/-- A quantizing command of either path (R106, R108): the wide source slice and its destinations. Its rows run along the reduction axis. -/
structure QuantCmd where
  p        : QuantParams
  saffronList  : Option RegionOp   -- the list operand: channel indices of 4 bytes each (log 122)
  saffronCount : Nat
  src      : RegionOp
  srcFmt   : Fmt
  rows     : Nat
  cols     : Nat          -- reduction elements of this shard
  stride   : Nat          -- bytes from source row to source row
  turned   : Bool         -- the reduction axis runs down the source rows, and not along them
  stored   : Option (Nat × Nat)   -- stored rows and reduction elements, where the declared extent is larger (R336)
  firstIdx : Nat          -- first logical reduction index of the shard (R109, R111)
  rowLen   : Nat          -- logical reduction length of the tensor
  index0   : Nat          -- logical index of the slice's first element (R343)
  indexRow : Nat          -- logical index step from row to row
  indexCol : Nat          -- logical index step along the reduction axis: 1 where that axis is the tensor's innermost
  rowScale : Option RegionOp   -- supplied row scales, FP32
  chanMax  : Option RegionOp   -- channel-max operand, FP32
  elemDst  : Option Loc        -- element codes
  layout   : Fin 4             -- their layout, a code of R323
  elemStride : Nat             -- bytes from row to row in row order
  pieceGap : Nat               -- bytes from piece to piece
  scaleDst : Option Loc
  scaleLayout : Fin 4
  scaleStride : Nat
  rowScaleDst : Option Loc     -- row scales used
  saffronDst : Option Loc
  stats    : Option RegionOp   -- 64-byte statistics record (R136)
  deriving DecidableEq, Repr

/-- A stored narrow tensor (R74 to R93): rows along the reduction axis. `rows` and `cols` are the extent that it is read with, `storedRows` and `storedCols` what is stored (R336). -/
structure NarrowTensor where
  data     : Loc
  fmt      : Fmt
  pieces   : Nat          -- 1, or 2 or 3 for split-wide (R92)
  pieceGap : Nat          -- bytes from piece to piece
  rows     : Nat
  cols     : Nat
  storedRows : Nat
  storedCols : Nat
  stride   : Nat          -- bytes from row to row in row order
  layout   : Fin 4        -- code of R323
  half     : Option Nat   -- bytes from the first to the second of two sub-blocks along the reduction axis that are stored apart (R172)
  group    : Nat
  scaleFmt : ScaleFmt
  scales   : Loc          -- one code per row and group, a tensor of its own (R323)
  scaleLayout : Fin 4
  scaleStride : Nat
  rowScales : Option Loc
  rot      : Nat
  rotStream : BitVec 24
  deriving DecidableEq, Repr

/-- A matrix operand: narrow as stored, or wide and quantized in flight by the operand path (R106). -/
inductive MatOperand where
  | narrow (t : NarrowTensor)
  | wide (q : QuantCmd)
  deriving DecidableEq, Repr

/-- How the terms of a split-wide product are formed (R176 to R178). -/
inductive Packing where
  | passes | columns | bands
  deriving DecidableEq, Repr

/-- A narrow-promotion matrix command (R157); `colWise` is the load orientation of R172, `transposed` the streamed read of R175. -/
structure ProductCmd where
  a          : MatOperand
  transposed : Bool
  b          : MatOperand
  colWise    : Bool
  dst        : RegionOp
  dstStride  : Nat
  fresh      : Bool       -- starts the accumulators at +0
  packing    : Packing
  drop       : Bool
  deriving DecidableEq, Repr

/-- An exact-mode matrix command (R159 to R169). -/
structure ExactCmd where
  a          : MatOperand
  transposed : Bool
  b          : MatOperand
  colWise    : Bool
  lr         : RegionOp
  dst        : RegionOp
  dstStride  : Nat
  opens      : Bool
  closes     : Bool
  anchor     : Int
  twoWindow  : Bool       -- that of its block, which it names as it names the long registers (R161; log 150)
  packing    : Packing
  drop       : Bool
  row0       : Nat        -- first row of the block that this command streams
  blockRows  : Nat
  block      : Nat        -- gradient block it belongs to (R262)
  deriving DecidableEq, Repr

/-- A vector stream (R194): element stride in elements, row stride in bytes. -/
structure VStream where
  op       : RegionOp
  fmt      : Fmt
  stride   : Nat
  rowStride : Nat
  group    : Nat
  scaleFmt : ScaleFmt
  scales   : Option RegionOp
  rowScales : Option RegionOp
  stored   : Option (Nat × Nat)   -- stored rows and elements, where the declared extent is larger (R336)
  deriving DecidableEq, Repr

/-- The relations of R623. -/
inductive Rel where
  | lt | le | eq | ge | gt | ne | unordered
  deriving DecidableEq, Repr

/-- The row reductions of R210. -/
inductive Reduction where
  | sum | sumSquares | max | min | maxIndex
  deriving DecidableEq, Repr

/-- The operations of R210. -/
inductive VOp where
  | copy | convert | scale (c : Word) | fill
  | add | sub | mul | min | max
  | compare (r : Rel) | select | fma
  | div | sqrt | rsqrt
  | table (t : RegionOp) (b : Int)
  | tableTimes (t : RegionOp) (b : Int)
  | reduce (r : Reduction) (carry : Option RegionOp)
  | draw (beta : Word) (stream : BitVec 24) (greedy : Bool) (carry : Option RegionOp)
  | cacheFill
  deriving DecidableEq, Repr

/-- A vector command (R194 to R201). -/
structure VectorCmd where
  vop    : VOp
  srcs   : List VStream
  dst    : VStream
  count  : Nat
  round  : Rounding
  roundStream : BitVec 24
  code   : Option Byte   -- the single E8M0 code of an FP8 destination, where the command names one (R199)
  index0 : Nat           -- logical index of the first element
  indexRow : Nat         -- logical index step from row to row
  deriving DecidableEq, Repr

/-- What a command asks its engine for. `win` is the region, of the core in whose window a device address lies, that an operand at that address names (R45); its offset is the address's own. -/
inductive Body where
  | product (p : ProductCmd)
  | exact (p : ExactCmd)
  | saffron (p : ProductCmd)
  | vector (v : VectorCmd)
  | checkSlot (position : Nat)
  | quantize (q : QuantCmd)
  | stackRead (src : Dword) (win : Option RegionOp) (dst : RegionOp) (len : Nat)
  | stackWrite (src : RegionOp) (dst : Dword) (win : Option RegionOp) (len : Nat)
  | copy (src dst : RegionOp) (len : Nat)
  | remoteRead (src : Dword) (dst : RegionOp) (len : Nat)
  | layout (desc : Loc) (src dst : Option RegionOp)
  | invalidate
  | post
  deriving DecidableEq, Repr

/-- A command of an engine queue (R29, R31, R33, R35). `strides` are its repeat strides in bytes, by operand; a vector command's are the row strides of its streams (R201). -/
structure EngineCmd where
  waits  : List TokAmt
  posts  : List Post
  remote : List (CoreRef × TokAmt)
  palStart : Nat
  palCount : Nat
  repeats : Nat
  strides : List Nat
  mark   : Mark
  body   : Body
  deriving DecidableEq, Repr

/-- The phases of an update command (R247). -/
inductive Phase where
  | norm | apply | emitBackward | emitResidual
  deriving DecidableEq, Repr

/-- An update command (R247), for a tensor whose logical shape is rows x cols, the reduction axis of its copy innermost. -/
structure UpdateCmd where
  phase  : Phase
  tensor : Nat
  rows   : Nat
  cols   : Nat
  first  : Nat
  count  : Nat
  micro  : Nat
  hyper  : Dword
  grad   : Dword
  master : Dword
  m1     : Dword
  m2     : Dword
  copy   : Dword
  copyScales : Dword
  copyRowScales : Dword
  rowScalesIn : Dword
  saffronOut : Dword
  rungMap : Dword
  fallback : Dword
  fallbackBytes : Nat
  out    : Dword
  momentFmt : Fmt
  momentRound : Rounding
  byColumns : Bool        -- the copy or residual is grouped along the other axis (R240, R260)
  copyLayout : Fin 4      -- layout of the forward copy, by the tensor's annotation (R323, R509)
  outLayout : Fin 4       -- layout of the backward copy or residual that the command emits (R323, R509)
  step   : BitVec 32
  seq    : BitVec 27
  enc    : QuantParams
  copyEnc : QuantParams   -- what the image fixes for the tensor's forward copy, read by an emission of E
  stats  : Option (CoreRef × RegionOp)   -- statistics record of its encoder (R108, R136, R148)
  mark   : Mark
  waits  : List TokAmt
  posts  : List TokAmt
  deriving DecidableEq, Repr

/-- What a control core pushes (R27, R246). -/
inductive Pushed where
  | engine (e : Engine) (cmd : EngineCmd)
  | update (cmd : UpdateCmd)
  deriving DecidableEq, Repr

/-- Whose wait has run out (R60). -/
inductive WaitSite where
  | command (c : CoreRef) (e : Engine)
  | control (c : CoreRef) (t : TokAmt)
  | updateSeq (t : Fin 4)
  deriving DecidableEq, Repr

/-- What a hardware upset in an engine strikes: the raw group sum of a column of the array, 256 being the checksum column, the operand held in a cell (R181), the sum that a piece combiner forms, the promoted result or the high long register, the low long register (R184), a byte in flight on a path that carries byte parity (R348), an element of a vector result, or the result of a microtable entry (`row` is the entry, `index` the parameter). -/
inductive Strike where
  | sum | cell | combined | promoted | low | path | element
  deriving DecidableEq, Repr

/-- A hardware upset of one value inside a step: where it strikes and the bits it flips (log 8). `rep` is the repetition, `pass` and `piece` the pass and the term within it; `index` is the group, the reduction position of a cell, or the element. -/
structure Upset where
  at_    : Strike
  rep    : Nat
  row    : Nat
  pass   : Nat
  piece  : Nat
  index  : Nat
  column : Nat
  mask   : BitVec 256
  deriving DecidableEq, Repr

/-- Physical conditions of reads: bits flipped in stored codewords (physical word, mask), and how many times path parity fails on a piece of the access, by piece number (R302). -/
structure ReadErrs where
  flips  : List (Nat × Codeword)
  parity : List (Nat × Nat)
  deriving DecidableEq, Repr

/-- Collective operations (11, "Collectives in canonical order"). -/
inductive CollOp where
  | reduceScatter | allReduce | reduce | allGather | broadcast | allToAll | transfer
  deriving DecidableEq, Repr

/-- A collective that a program names. `members` lists rank-table indices in group order; `bounds` gives the first element each rank owns (reduce-scatter). -/
structure CollSpec where
  num     : BitVec 32
  op      : CollOp
  wide    : Bool          -- binary64 instead of FP32
  isMax   : Bool
  members : List Nat
  root    : Nat
  src     : Dword
  dst     : Dword
  count   : Nat
  bounds  : List Nat
  posts   : List (CoreRef × TokAmt)
  norm    : Bool          -- the all-reduce of S (R251)
  mark    : Mark
  deriving DecidableEq, Repr

/-- A message header (R407). -/
structure MsgHeader where
  op      : Byte
  version : Byte
  placeEpoch : BitVec 16
  coll    : BitVec 32
  chunk   : BitVec 32
  length  : BitVec 32
  address : Dword
  step    : BitVec 32
  srcRank : BitVec 16
  deriving DecidableEq, Repr

/-- A message on the fabric: sending device, header, payload. -/
structure Msg where
  src     : BitVec 16
  hdr     : MsgHeader
  payload : List Byte
  deriving DecidableEq, Repr

/-- A flit (R395). -/
structure Flit where
  type  : BitVec 4
  vc    : BitVec 2
  first : Bool
  last  : Bool
  seq   : BitVec 12
  ack   : BitVec 12
  dst   : BitVec 16
  src   : BitVec 16
  credVc : BitVec 2
  credN : BitVec 10
  len   : Byte
  payload : List Byte     -- the 240 payload bytes
  crc   : Word
  deriving DecidableEq, Repr

/-- A timing block (R431), times in 1/256 tick, with the receiver's own arrival time. -/
structure TimingBlock where
  aligned : Bool
  root    : Bool
  tTx     : Dword
  tRxLast : Dword
  tTxLast : Dword
  arrival : Dword
  deriving DecidableEq, Repr

/-- A bulk frame (R438) as received, with the sender's address. -/
structure BulkFrame where
  peer    : BitVec 128
  type    : Byte
  session : BitVec 32
  offset  : Dword
  length  : BitVec 32
  seq     : BitVec 32
  crc     : Word
  wellFormed : Bool       -- MAGIC, VERSION and reserved bytes as R438 gives them
  payload : List Byte
  deriving DecidableEq, Repr

/-- Data read from host memory: the bytes, or the failing request (R450). -/
inductive HostRead where
  | ok (bytes : List Byte)
  | error (addr : Dword)
  | timeout (addr : Dword)
  deriving DecidableEq, Repr

/-- One operation of a microtable (R254). -/
inductive MicroOp where
  | add | sub | mul | fma | div | sqrt | rsqrt | min | max | abs | neg | select
  deriving DecidableEq, Repr

/-- A source of a microtable entry (R255). -/
inductive MicroSrc where
  | g | w | m1 | m2 | h (i : Fin 16) | c | t | a (i : Fin 8)
  deriving DecidableEq, Repr

/-- A destination of a microtable entry (R255). -/
inductive MicroDst where
  | w | m1 | m2 | a (i : Fin 8)
  deriving DecidableEq, Repr

/-- An entry of a microtable (R254). -/
structure MicroEntry where
  op  : MicroOp
  dst : MicroDst
  (x y z : MicroSrc)
  deriving DecidableEq, Repr

/-- A region declaration of an image (R43), its core as the image names it. -/
structure RegionDecl where
  tile : Nat
  core : Nat
  space : Space
  id   : Nat
  base : Nat
  size : Nat
  deriving DecidableEq, Repr

/-- A gradient bucket (R262): its blocks in order and the collective that reduces it. -/
structure Bucket where
  blocks : List Nat
  bytes  : Nat
  coll   : CollSpec
  deriving DecidableEq, Repr

/-- A checkpoint section that the program declares (R517, R518): a matrix of elements, whose logical indices ascend row by row, and where its elements, group-scale codes and row scales lie in the stacks, in which layouts of R323. -/
structure CkptSection where
  tensor : Nat
  kind   : Byte
  format : Byte
  pieces : Nat
  firstIdx : Nat
  rows   : Nat
  cols   : Nat
  elems  : Dword
  layout : Fin 4
  stride : Nat                -- bytes from row to row in row order
  pieceGap : Nat              -- bytes from piece to piece
  scales : Dword
  groups : Nat                -- group-scale codes of a row; 0 without
  scaleLayout : Fin 4
  scaleStride : Nat
  rowScales : Dword
  hasRowScales : Bool
  fall   : Option UpdateCmd   -- of a forward copy: where its rung map and fall-back area lie
  deriving DecidableEq, Repr

/-- The content of a program image (R468, R498, R500, R511, R513), its private encoding aside (R2), with its bytes for measurement M3. -/
structure Image where
  major  : Nat
  minor  : Nat
  shape  : Dword
  cls    : Nat
  marks  : List Mark
  sampling : Option Nat
  fullRedundancy : Bool
  test   : Bool
  abortNonfinite : Bool
  needsFabric : Bool
  regions : List RegionDecl
  work   : List (Nat × Nat)
  allocations : List (Nat × Nat)
  microtables : List (List MicroEntry)
  palettes : List (CoreRef × Engine × List Nat)
  buckets : List Bucket
  sections : List CkptSection
  bytes  : List Byte
  deriving DecidableEq, Repr

/-- What the read of an image and its seed brought (R626 check 3). -/
inductive ImageRead where
  | ok (i : Image) (seed : Digest)
  | error (addr : Dword)
  | timeout (addr : Dword)
  deriving DecidableEq, Repr

/-- A BAR access (R448). -/
structure BarAccess where
  bar2   : Bool
  offset : Nat
  width  : Nat
  write  : Bool
  value  : Dword
  deriving DecidableEq, Repr

/-- What the power stage, counters and sensors measured over a step (R546, R547). -/
structure StepMeasure where
  (matrix vector stack scratch serdes hub leakage conversion : Nat)
  fabricWait : Nat
  (fp4 wide idle : Nat)
  vcoreAvg : Nat
  limitUs : Nat
  deriving DecidableEq, Repr

/-- A sensor of R541. -/
inductive Sensor where
  | tile (t : Fin 4)
  | stack (s : Fin 24)
  deriving DecidableEq, Repr

/-- A push, and whether the control core's arithmetic fails its residue check as it makes the command (R348). -/
structure PushRun where
  pushed  : Pushed
  residue : Bool
  deriving DecidableEq, Repr

/-- What strikes the run of a matrix or update command (log 8): a flip in the engine, and the conditions of its reads. -/
structure Conditions where
  up   : Option Upset
  errs : ReadErrs
  deriving DecidableEq, Repr

/-- What strikes a stream command (log 8): the parity of a byte on the core's data paths, and the conditions of its reads. -/
structure PathErrs where
  path : Bool
  errs : ReadErrs
  deriving DecidableEq, Repr

/-- The run of a stream command of a core that reads no stack, and whether the parity of a byte on its data paths fails (log 8). -/
structure CoreRun where
  core : CoreRef
  path : Bool
  deriving DecidableEq, Repr

/-- The run of a stream command of a core that reads the stacks, with what strikes it (log 8). -/
structure CoreRead where
  core : CoreRef
  path : Bool
  errs : ReadErrs
  deriving DecidableEq, Repr

/-- The run of an update command that a tile's unit carries out, with what strikes it (log 8). -/
structure UnitRead where
  tile : Fin 4
  path : Bool
  errs : ReadErrs
  deriving DecidableEq, Repr

/-- A collective that begins, with the conditions of its first read (log 8). -/
structure CollRun where
  spec : CollSpec
  errs : ReadErrs
  deriving DecidableEq, Repr

/-- A message whose handling reads the stacks, with the conditions of that read (log 8). -/
structure MsgRead where
  msg  : Msg
  errs : ReadErrs
  deriving DecidableEq, Repr

/-- A bulk frame whose handling reads the stacks, with the conditions of that read (log 8). -/
structure FrameRead where
  frame : BulkFrame
  errs  : ReadErrs
  deriving DecidableEq, Repr

/-- What the host returned for a descriptor that moves data, with the conditions of the device's own reads (log 8). -/
structure HostMove where
  read : HostRead
  errs : ReadErrs
  deriving DecidableEq, Repr

/-- A submission ring whose descriptor reads the stacks, with the conditions of that read (log 8). -/
structure RingRead where
  ring : Fin 16
  errs : ReadErrs
  deriving DecidableEq, Repr

/-- A core whose stream engine runs a host layout copy, with the conditions of its reads (log 8). -/
structure CopyRun where
  core : CoreRef
  errs : ReadErrs
  deriving DecidableEq, Repr

/-- Where a flit came in its frame (R392), and whether every lane of the frame was corrected (R393). -/
structure LaneReport where
  slot : Fin 20
  ok   : Bool
  deriving DecidableEq, Repr

/-- One constructor per row of spec/opcode_table.json, in its order. -/
inductive Instr where
  | pushCommand (c : CoreRef) (p : PushRun)
  | pushResume (c : CoreRef)
  | engineBeginCommand (u : UnitRef)
  | epochRelease (c : CoreRef) (e : Engine) (operand : Nat)
  | commandComplete (u : UnitRef) (sigDiff : Option Word)
  | tokenTimeout (w : WaitSite)
  | matrixProduct (c : CoreRef) (x : Conditions)
  | exactModeProduct (c : CoreRef) (x : Conditions)
  | saffronSidePass (c : CoreRef) (x : Conditions)
  | streamQuantizeWrite (x : CoreRun)
  | vectorCopyConvert (c : CoreRef) (up : Option Upset)
  | vectorBinary (c : CoreRef) (up : Option Upset)
  | vectorMinMax (c : CoreRef) (up : Option Upset)
  | vectorCompare (c : CoreRef) (up : Option Upset)
  | vectorSelect (c : CoreRef) (up : Option Upset)
  | vectorFma (c : CoreRef) (up : Option Upset)
  | vectorDivideRoot (c : CoreRef) (up : Option Upset)
  | tableFunction (c : CoreRef) (up : Option Upset)
  | tableFunctionTimesSource (c : CoreRef) (up : Option Upset)
  | rowReduction (c : CoreRef) (up : Option Upset)
  | draw (c : CoreRef) (up : Option Upset)
  | operandCacheFill (c : CoreRef) (up : Option Upset)
  | checkSlot (c : CoreRef) (up : Option Upset)
  | firmwareCheckInsert (c : CoreRef) (position : Nat) (up : Option Upset)
  | stackRead (c : CoreRef) (x : PathErrs)
  | stackWrite (x : CoreRun)
  | remoteStackRead (x : CoreRead)
  | cacheLineFetchDone (line : Dword) (data : List Byte)
  | cacheInvalidate (c : CoreRef)
  | layoutCopyCommand (x : CoreRead)
  | uuNorm (x : UnitRead)
  | normDecision (t : Fin 4) (sum : Dword)
  | uuApply (t : Fin 4) (x : Conditions) (again : Bool)
  | uuEmitBackwardCopy (x : UnitRead)
  | uuEmitResidual (x : UnitRead)
  | bucketLaunch
  | collectiveStart (k : CollRun)
  | collectiveComplete (num : BitVec 32)
  | flitReceive (p : Fin 48) (f : Flit) (lanes : LaneReport)
  | nackReceive (p : Fin 48) (ack : BitVec 12)
  | replayTimeout (p : Fin 48)
  | signalDetect (p : Fin 48)
  | lanesLocked (p : Fin 48) (lanes : Nat)
  | trainingTimeout (p : Fin 48)
  | linkLoss (p : Fin 48)
  | discovery (p : Fin 48) (switch : BitVec 32) (swPort : BitVec 16) (plane : Byte)
  | fabPlanCheck (v : Dword)
  | timingBlockReceive (p : Fin 48) (b : TimingBlock)
  | timePortSilence
  | timeOffsetExceeded
  | msgWrite (m : Msg)
  | msgReducePartial (m : MsgRead)
  | msgMaxPartial (m : MsgRead)
  | msgTokenPost (m : Msg)
  | msgRemoteReadRequest (m : MsgRead)
  | msgRemoteReadResponse (m : Msg)
  | msgAck (src : BitVec 16) (coll chunk step : BitVec 32)
  | messageAckTimeout (dst : BitVec 16) (coll chunk step : BitVec 32)
  | probe (p : Fin 48) (src : BitVec 16) (counter : Dword)
  | probeReply (src : BitVec 16) (counter : Dword)
  | peerSilence (peer : BitVec 16)
  | probeUnanswered (peer : BitVec 16)
  | beacon (src : BitVec 16) (stopped : Bool) (cause : Byte) (delay : BitVec 32) (step : BitVec 32)
  | beaconInterval (delay : BitVec 32) (cause : Byte)
  | abortControlFlit (src : BitVec 16) (reason : Byte) (coll step : BitVec 32)
  | collectiveDeadline (num : BitVec 32)
  | hotStackAbortTimeout
  | launch
  | fabInjectArm (v : Dword)
  | ethBulkWrite (e : Fin 2) (f : BulkFrame)
  | ethReadReq (e : Fin 2) (f : FrameRead)
  | ethMessage (e : Fin 2) (f : BulkFrame)
  | ethFrameDiscard (e : Fin 2)
  | sqTail (r : Fin 16) (v : Word)
  | cqHead (r : Fin 16) (v : Word)
  | doorbellPairWrite (r : Fin 16) (v : Dword)
  | sqEnable (r : Fin 16) (v : Dword)
  | sqDisable (r : Fin 16) (v : Dword)
  | cqEnable (r : Fin 16) (v : Dword)
  | cqDisable (r : Fin 16) (v : Dword)
  | descriptorFetch (r : Fin 16) (slots : List (BitVec 512))
  | nop (r : Fin 16)
  | loadProgram (r : Fin 16) (read : ImageRead)
  | unload (r : Fin 16)
  | runStep (r : Fin 16)
  | transfer (r : Fin 16) (read : HostMove)
  | layoutCopy (r : Fin 16) (c : CopyRun)
  | ckptSave (r : RingRead)
  | ckptRestore (r : Fin 16) (read : HostMove)
  | sanitize (r : Fin 16)
  | gessoFillDone
  | sessionOpen (r : Fin 16)
  | sessionClose (r : Fin 16)
  | messageBuffer (r : Fin 16)
  | rankTable (r : Fin 16) (read : HostRead)
  | abort (r : Fin 16)
  | violatingAccess (a : BarAccess)
  | hostRequestError (r : Fin 16) (addr : Dword)
  | hostReadTimeout (r : Fin 16) (addr : Dword)
  | ucieModuleLost (m : Fin 2)
  | ucieLinkDown
  | ucieLinkReturn (modules : Fin 3)
  | functionLevelReset
  | d3hotEntry
  | coalesceTimeout (q : Fin 16)
  | stepEnd (m : StepMeasure)
  | classifyByHistory (seq : BitVec 32)
  | confirmationTestDone (t : Fin 4) (pass : Bool)
  | iftDue (t : Fin 4) (p : Fin 68)
  | iftSegmentDone (t : Fin 4) (p : Fin 68) (pass : Bool)
  | cmpInjectArm (v : Word)
  | logDrain
  | varnishRead (q : Fin 384) (idx : Nat) (errs : ReadErrs)
  | stripeRetire (q : Fin 384) (idx : Nat)
  | ceWindowEnd
  | channelMapOut (q : Fin 384)
  | relocationStart
  | replicasAcknowledged
  | stripeCopyDone
  | oldStripeRelease
  | channelDead (q : Fin 384)
  | enableAssert
  | bootRomStart
  | firmwareImageCheck
  | ucieTrainingDone
  | enableDeassert
  | inputUndervoltage
  | inputRecovered
  | inputOvervoltage
  | railOutOfRegulation (rail : BitVec 10)
  | thermalTrip (x : Sensor)
  | resetNLow
  | resetNRelease
  | mgtReset (v : Dword)
  | limiterSample (watts : Nat) (vin4mv : BitVec 16)
  | governor
  | stackOver95 (k : Fin 24) (temp : BitVec 16)
  | stackOver105 (k : Fin 24) (temp : BitVec 16)
  | tileOver100 (t : Fin 4) (temp : BitVec 16)
  | thermalResponseClear (x : Sensor) (temp : BitVec 16)
  | floorWindow (femtojoules products : Nat)
  | calibrationSave
  | fwUpdateGo (v : Dword)
  | fwUpdateDone (read : HostRead)
  | fwCommit (v : Dword)
  | attestGo (v : Dword)
  | attestDone (hostOk : Bool)
  | watchdogExpiry (core : Fin 4)
  | managementRestart
  | loadWindow (busy : List Byte)
  | telemetrySnapshot
  | calibrationDisagree (unit : UnitId) (region : Fin 6)
  | calibrationRelax (unit : UnitId) (region : Fin 6)
  | monitorSample (m : Fin 64) (v : BitVec 32)
  | monitorClear (m : Fin 64) (v : Dword)
  | turnArm (v : Dword)
  | turnDisarm (v : Dword)
  | turnTimeReached
  | shadowRefillDone
  | w1cClear (offset : Nat) (v : Dword)
  | registerWrite (offset : Nat) (width : Nat) (v : Dword)
  | i3cPrivateRead (n : Nat)
  | i3cPointerWrite (bytes : List Byte)
  | i3cStatusRefresh
  | bypass (tdi : Bool)
  | idcode
  | samplePreload (cells : List Bool)
  | extest (cells : List Bool)
  | ethernetPortUp (e : Fin 2)
  | ethernetPortDown (e : Fin 2)
  | holdUpCharged
  | inputRemoved
  | d3hotExit
  | msixVectorUnmask (v : Fin 32)
  deriving DecidableEq, Repr

end Sys2Proof
end

