-- ==== Sys2Proof/WellFormed.lean ====
section
/-! DEFINITION. Which commands are well formed: the bounds that the manual puts on the fields of what a command carries. -/

namespace Sys2Proof

/-- The permitted group sizes and rotation sizes, 0 for no rotation (R104, R108). -/
def sizesOk (group rot : Nat) : Bool := (group == 32 || group == 64 || group == 128) && (rot == 0 || rot == 32 || rot == 64 || rot == 128)

/-- The parameters of R108: their sizes, a rounding mode that R98 gives a quantizer, a rung of 0 to 2, and a saffron format of the table. -/
def QuantParams.wf (p : QuantParams) : Bool :=
  sizesOk p.group p.rot && p.round != .rz && decide (p.rung.toNat ≤ 2) && p.saffronOut != .fp4 && p.saffronOut != .e5m2

/-- Bit planes hold FP4 only (R323). -/
def layoutFits (layout : Fin 4) (four : Bool) : Bool := decide (layout.val < 2) || four

/-- A quantizing command: a wide source of FP32 or BF16 in the scratchpad or the accumulator file (R107), what its parameters name, and layouts that its formats may take (R323). -/
def QuantCmd.wf (q : QuantCmd) : Bool :=
  q.p.wf && q.p.saffron.isEmpty && (q.saffronCount == 0 || q.saffronList.isSome) && (q.srcFmt == .fp32 || q.srcFmt == .bf16) &&
  q.src.space != .oc && (q.p.rowScale != .supplied || q.rowScale.isSome) &&
  (match q.stats with | some o => o.space == .sp | none => true) && layoutFits q.layout (q.p.out == .fp4) && layoutFits q.scaleLayout false

/-- A stored tensor: its sizes, one to three pieces, E4M3 where there is more than one (R92, R93), row scales beneath UE4M3 (R89), layouts that its formats may take (R323), and no more stored than it is read with (R336). -/
def NarrowTensor.wf (t : NarrowTensor) : Bool :=
  sizesOk t.group t.rot && decide (1 ≤ t.pieces) && decide (t.pieces ≤ 3) &&
  (t.pieces == 1 || (t.fmt == .e4m3 && t.scaleFmt == .e8m0 && t.rowScales.isNone)) &&
  (t.scaleFmt != .ue4m3 || t.rowScales.isSome) && layoutFits t.layout (t.fmt == .fp4) && layoutFits t.scaleLayout false &&
  decide (t.storedRows ≤ t.rows) && decide (t.storedCols ≤ t.cols)

/-- A matrix operand. -/
def MatOperand.wf : MatOperand → Bool
  | .narrow t => t.wf
  | .wide q => q.wf

/-- Rows and reduction length of the streamed operand. -/
def streamedShape : MatOperand → Bool → Nat × Nat
  | .narrow t, tr => if tr then (t.cols, t.rows) else (t.rows, t.cols)
  | .wide q, _ => (q.rows, q.cols)

/-- Output columns and reduction length of the stationary operand: a row-wise load has the reduction axis down the stored rows (R172); a wide operand's rows are its output columns, however it is stored. -/
def stationaryShape : MatOperand → Bool → Nat × Nat
  | .narrow t, colWise => if colWise then (t.rows, t.cols) else (t.cols, t.rows)
  | .wide q, _ => (q.rows, q.cols)

/-- Is a matrix operand FP4. -/
def MatOperand.four : MatOperand → Bool
  | .narrow t => t.fmt == .fp4
  | .wide q => q.p.out == .fp4

/-- A block that the array holds: at most 256 columns, and 512 reduction positions in four-bit mode, 256 in eight-bit mode (R149). -/
def blockOk (a b : MatOperand) (transposed colWise : Bool) : Bool :=
  let x := streamedShape a transposed
  let y := stationaryShape b colWise
  let k := if a.four && b.four then 512 else 256
  a.wf && b.wf && decide (x.2 ≤ k) && decide (y.2 ≤ k) && decide (y.1 ≤ 256)

/-- An operand of a saffron side pass: 64 stored reduction positions in one E8M0 group, with no row scales and no rotation (R115, R179). -/
def MatOperand.saffron (m : MatOperand) (shape : Nat × Nat) : Bool :=
  match m with
  | .narrow t => shape.2 == 64 && t.group == 64 && t.scaleFmt == .e8m0 && t.rowScales.isNone && t.rot == 0 && t.fmt == .e4m3
  | .wide _ => false

/-- A saffron side pass (R179). -/
def ProductCmd.saffron (p : ProductCmd) : Bool :=
  p.a.saffron (streamedShape p.a p.transposed) && p.b.saffron (stationaryShape p.b p.colWise) && p.packing == .bands

/-- Sources of each operation (R210). -/
def VOp.sources : VOp → Nat
  | .copy | .convert | .scale _ | .fill | .cacheFill | .sqrt | .rsqrt | .table _ _ | .reduce _ _ | .draw _ _ _ _ => 1
  | .add | .sub | .mul | .min | .max | .compare _ | .div | .tableTimes _ _ => 2
  | .select | .fma => 3

/-- A vector stream: a narrow one has group scales (R198), and row scales beneath UE4M3 (R89). -/
def VStream.wf (v : VStream) : Bool :=
  match v.fmt with
  | .fp4 | .e4m3 | .e5m2 => v.scales.isSome && (v.scaleFmt != .ue4m3 || v.rowScales.isSome)
  | _ => true

/-- A vector command: its count (R201), its sources (R194, R210), a place for the scale codes of an FP8 destination (R199), and only an operand-cache fill writes an operand cache (R195, R207, R208). -/
def VectorCmd.wf (v : VectorCmd) : Bool :=
  decide (v.count ≤ 16383) && ((v.vop == .cacheFill) == (v.dst.op.space == .oc)) && v.srcs.length == v.vop.sources && v.srcs.all VStream.wf &&
  (match v.dst.scales with | some o => o.space != .oc | none => v.dst.fmt != .e4m3 && v.dst.fmt != .e5m2)

/-- The parameters of a command's body. -/
def Body.wf : Body → Bool
  | .product p => blockOk p.a p.b p.transposed p.colWise && p.dst.space == .acc
  | .saffron p => blockOk p.a p.b p.transposed p.colWise && p.dst.space == .acc && p.saffron
  | .exact p =>
    blockOk p.a p.b p.transposed p.colWise && decide (-512 ≤ p.anchor) && decide (p.anchor ≤ 511) && p.lr.space == .sp && p.dst.space != .oc
  | .vector v => v.wf
  | .quantize q => q.wf
  | .stackRead a _ _ _ => !a.getLsbD 63
  | .stackWrite _ a _ _ => !a.getLsbD 63
  | .remoteRead a _ _ => a.getLsbD 63
  | .checkSlot _ | .copy _ _ _ | .layout _ _ _ | .invalidate | .post => true

/-- The queue that carries a body (02, "Queues and engines"); any queue carries a bare post. -/
def Body.fits (e : Engine) : Body → Bool
  | .product _ | .exact _ | .saffron _ => e == .matrix
  | .vector _ | .checkSlot _ => e == .vector
  | .post => true
  | .quantize _ | .stackRead _ _ _ _ | .stackWrite _ _ _ _ | .copy _ _ _ | .remoteRead _ _ _ | .layout _ _ _ | .invalidate => e == .stream

/-- At most four waits and four posts, posts to other cores among them, and the palette and repeat fields in their ranges (R29, R33, R35). -/
def EngineCmd.wf (c : EngineCmd) : Bool :=
  decide (c.waits.length ≤ 4) && decide (c.posts.length + c.remote.length ≤ 4) && decide (c.palStart < 4096) &&
  decide (c.palCount ≤ 4096) && decide (c.repeats ≤ 65535) && c.body.wf

/-- Does an owned range lie in its tensor, as whole rows or inside one row (R247). -/
def UpdateCmd.rangeOk (c : UpdateCmd) : Bool :=
  decide (c.first + c.count ≤ c.rows * c.cols) &&
  ((c.first % c.cols == 0 && c.count % c.cols == 0) || c.count == 0 || c.first / c.cols == (c.first + c.count - 1) / c.cols)

/-- Bit planes hold FP4 only (R323). -/
def UpdateCmd.layoutsOk (c : UpdateCmd) : Bool :=
  layoutFits c.copyLayout ((if c.phase == .apply then c.enc.out else c.copyEnc.out) == .fp4) && layoutFits c.outLayout (c.enc.out == .fp4)

/-- An update command (R29, R247): its token lists, a microtable of eight, an owned range, moments of BF16 or FP32 with a rounding of R98, the parameters of R108, layouts that its formats may take (R323), and the two-piece form of a residual (R260). -/
def UpdateCmd.wf (c : UpdateCmd) : Bool :=
  decide (c.waits.length ≤ 4) && decide (c.posts.length ≤ 4) && decide (c.micro < 8) && c.rangeOk && c.layoutsOk &&
  (c.momentFmt == .bf16 || c.momentFmt == .fp32) && c.momentRound != .rz && c.enc.wf && c.copyEnc.wf &&
  (c.phase != .emitResidual || c.enc.out == .sw2) && (match c.stats with | some x => x.2.space == .sp | none => true)

/-- A pushed command. -/
def Pushed.wf : Pushed → Bool
  | .engine e c => c.wf && c.body.fits e && (e == .stream || c.remote.isEmpty)
  | .update c => c.wf

/-- A flit carries 240 payload bytes, of which a multiple of 4 are valid (R395). -/
def Flit.wf (f : Flit) : Bool :=
  decide (f.payload.length = 240) && decide (f.len.toNat ≤ 240) && decide (f.len.toNat % 4 = 0)

/-- A message's payload has its LENGTH, at most 1 MiB and a multiple of 4, and its OP is one of the row's (R406, R407). -/
def Msg.wf (m : Msg) (ops : List Byte) : Bool :=
  decide (m.payload.length ≤ 1048576) && decide (m.payload.length % 4 = 0) && decide (m.hdr.length.toNat = m.payload.length) &&
  ops.contains m.hdr.op

/-- A bulk frame has at most 8,192 payload bytes (R438). -/
def BulkFrame.wf (f : BulkFrame) : Bool := decide (f.payload.length ≤ 8192)

/-- The bounds of each command's fields. -/
def Instr.wf : Instr → Bool
  | .pushCommand _ p => p.pushed.wf
  | .cacheLineFetchDone line data => decide (line.toNat % 32768 = 0) && decide (data.length = 32768)
  | .collectiveStart k => decide (0 < k.spec.members.length) && decide (k.spec.members.length ≤ 65536)
  | .flitReceive _ f _ => f.wf
  | .lanesLocked _ n => decide (n ≤ 4)
  | .msgWrite m => m.wf [0]
  | .msgReducePartial m => m.msg.wf [1, 2]
  | .msgMaxPartial m => m.msg.wf [3]
  | .msgTokenPost m => m.wf [4]
  | .msgRemoteReadRequest m => m.msg.wf [5]
  | .msgRemoteReadResponse m => m.wf [6]
  | .ethBulkWrite _ f | .ethMessage _ f => f.wf
  | .ethReadReq _ f => f.frame.wf
  | .violatingAccess a => decide (a.offset < 2 ^ 24)
  | .ucieLinkReturn m => decide (0 < m.val)
  | .varnishRead _ i _ => decide (i < 1536)
  | .stripeRetire _ i => decide (i < 1536)
  | .loadWindow busy => decide (busy.length = 4)
  | .calibrationDisagree _ _ | .calibrationRelax _ _ => true
  | .w1cClear o _ => decide (o < 2 ^ 24) && decide (o % 8 = 0)
  | .registerWrite o w _ => decide (o < 2 ^ 24) && (w == 4 || w == 8) && decide (o % w = 0)
  | .i3cPrivateRead n => decide (n ≤ 32)
  | .stepEnd m => decide (m.vcoreAvg < 65536)
  | .pushResume _ | .engineBeginCommand _ | .epochRelease _ _ _ | .commandComplete _ _ | .tokenTimeout _ => true
  | .matrixProduct _ _ | .exactModeProduct _ _ | .saffronSidePass _ _ | .streamQuantizeWrite _ => true
  | .vectorCopyConvert _ _ | .vectorBinary _ _ | .vectorMinMax _ _ | .vectorCompare _ _ | .vectorSelect _ _ => true
  | .vectorFma _ _ | .vectorDivideRoot _ _ | .tableFunction _ _ | .tableFunctionTimesSource _ _ => true
  | .rowReduction _ _ | .draw _ _ | .operandCacheFill _ _ | .checkSlot _ _ | .firmwareCheckInsert _ _ _ => true
  | .stackRead _ _ | .stackWrite _ | .remoteStackRead _ | .cacheInvalidate _ | .layoutCopyCommand _ => true
  | .uuNorm _ | .normDecision _ _ | .uuApply _ _ _ | .uuEmitBackwardCopy _ | .uuEmitResidual _ | .bucketLaunch => true
  | .collectiveComplete _ | .nackReceive _ _ | .replayTimeout _ | .signalDetect _ | .trainingTimeout _ | .linkLoss _ => true
  | .discovery _ _ _ _ | .fabPlanCheck _ | .timingBlockReceive _ _ | .timePortSilence | .timeOffsetExceeded => true
  | .msgAck _ _ _ _ | .messageAckTimeout _ _ _ _ | .probe _ _ _ | .probeReply _ _ | .peerSilence _ => true
  | .probeUnanswered _ | .beacon _ _ _ _ _ | .beaconInterval _ _ | .abortControlFlit _ _ _ _ => true
  | .collectiveDeadline _ | .hotStackAbortTimeout | .launch | .fabInjectArm _ | .ethFrameDiscard _ => true
  | .sqTail _ _ | .cqHead _ _ | .doorbellPairWrite _ _ | .sqEnable _ _ | .sqDisable _ _ | .cqEnable _ _ => true
  | .cqDisable _ _ | .descriptorFetch _ _ | .nop _ | .loadProgram _ _ | .unload _ | .runStep _ | .transfer _ _ => true
  | .layoutCopy _ _ | .ckptSave _ | .ckptRestore _ _ | .sanitize _ | .gessoFillDone | .sessionOpen _ => true
  | .sessionClose _ | .messageBuffer _ | .rankTable _ _ | .abort _ | .hostRequestError _ _ | .hostReadTimeout _ _ => true
  | .ucieModuleLost _ | .ucieLinkDown | .functionLevelReset | .d3hotEntry | .coalesceTimeout _ => true
  | .classifyByHistory _ | .confirmationTestDone _ _ | .iftDue _ _ | .iftSegmentDone _ _ _ | .cmpInjectArm _ => true
  | .logDrain | .ceWindowEnd | .channelMapOut _ | .relocationStart | .replicasAcknowledged | .stripeCopyDone => true
  | .oldStripeRelease | .channelDead _ | .enableAssert | .bootRomStart | .firmwareImageCheck | .ucieTrainingDone => true
  | .enableDeassert | .inputUndervoltage | .inputRecovered | .inputOvervoltage | .railOutOfRegulation _ => true
  | .thermalTrip _ | .resetNLow | .resetNRelease | .mgtReset _ | .limiterSample _ _ | .governor => true
  | .stackOver95 _ _ | .stackOver105 _ _ | .tileOver100 _ _ | .thermalResponseClear _ _ | .floorWindow _ _ => true
  | .calibrationSave | .fwUpdateGo _ | .fwUpdateDone _ | .fwCommit _ | .attestGo _ | .attestDone _ => true
  | .watchdogExpiry _ | .managementRestart | .telemetrySnapshot | .monitorSample _ _ | .monitorClear _ _ => true
  | .turnArm _ | .turnDisarm _ | .turnTimeReached | .shadowRefillDone | .i3cPointerWrite _ | .i3cStatusRefresh => true
  | .bypass _ | .idcode | .samplePreload _ | .extest _ | .ethernetPortUp _ | .ethernetPortDown _ => true
  | .holdUpCharged | .inputRemoved | .d3hotExit | .msixVectorUnmask _ => true

end Sys2Proof
end

