-- ==== Sys2Proof/Machine/Bits.lean ====
section
/-! DEFINITION. Bit fields (R4: a field [msb:lsb], bit 0 least significant) and little-endian bytes. -/

namespace Sys2Proof.Machine

/-- `len` bits of `w` from bit `lo`. -/
def bits {n : Nat} (w : BitVec n) (lo len : Nat) : Nat := (w.toNat >>> lo) % 2 ^ len

/-- `w` with the `len` bits from bit `lo` replaced by `v`. -/
def putBits {n : Nat} (w : BitVec n) (lo len v : Nat) : BitVec n :=
  BitVec.ofNat n (w.toNat - (bits w lo len) <<< lo + (v % 2 ^ len) <<< lo)

/-- Bit `i` of `w`. -/
def bit {n : Nat} (w : BitVec n) (i : Nat) : Bool := w.toNat.testBit i

/-- 0 or 1. -/
def flag (b : Bool) : Nat := if b then 1 else 0

/-- The `n` bytes of `v`, little-endian (R4). -/
def leBytes : Nat → Nat → List Byte
  | 0, _ => []
  | n + 1, v => BitVec.ofNat 8 v :: leBytes n (v / 256)

/-- The number that little-endian bytes spell. -/
def fromLe : List Byte → Nat
  | [] => 0
  | b :: r => b.toNat + 256 * fromLe r

/-- Bytes `lo` to `lo + n - 1` of a byte list, missing bytes zero, as a number. -/
def byteField (bs : List Byte) (lo n : Nat) : Nat := fromLe ((bs.drop lo).take n)

/-- A 16-bit two's-complement reading, for temperatures. -/
def signed16 (w : BitVec 16) : Int := w.toInt

/-- The larger of two signed temperatures. -/
def tempMax (a b : BitVec 16) : BitVec 16 := if a.toInt < b.toInt then b else a

/-- Saturating increment of a 64-bit counter ("saturates at 2^64 − 1"). -/
def satAdd (w : Dword) (n : Nat) : Dword := BitVec.ofNat 64 (min (w.toNat + n) (2 ^ 64 - 1))

/-- Sum of a list. -/
def total (l : List Nat) : Nat := l.foldl (· + ·) 0

/-- The `i`-th item of a list, or `d`. -/
def nth {α : Type} (l : List α) (i : Nat) (d : α) : α := (l[i]?).getD d

end Sys2Proof.Machine
end

