-- ==== Sys2Proof/Machine/Codes.lean ====
section
/-! DEFINITION. Check codes and fixed functions: SEC-DED (R298, R299), the CRCs of R350, R395 and R438, SHA-256 and the
Pepper block function (R340). SHA-256 and the ChaCha rounds are taken from their standards, which the spec names (log 10). -/

namespace Sys2Proof.Machine

/-! ### SEC-DED -/

/-- h(0) to h(31) of R298. -/
def secdedCols : List Nat :=
  [0x07, 0x0B, 0x0D, 0x0E, 0x13, 0x15, 0x16, 0x19, 0x1A, 0x1C, 0x23, 0x25, 0x26, 0x29, 0x2A, 0x2C] ++
  [0x31, 0x32, 0x34, 0x38, 0x43, 0x45, 0x46, 0x49, 0x4A, 0x4C, 0x51, 0x52, 0x54, 0x58, 0x61, 0x62]

/-- Exclusive-or of the columns of the data bits set, from bit `j` on. -/
def checkFrom (w : Nat) : Nat → List Nat → Nat
  | _, [] => 0
  | j, h :: r => (if w.testBit j then h else 0) ^^^ checkFrom w (j + 1) r

/-- The check bits of a data word. -/
def checkBits (w : Word) : Nat := checkFrom w.toNat 0 secdedCols

/-- The codeword of a data word (R298). -/
def codeword (w : Word) : Codeword := BitVec.ofNat 39 (w.toNat + checkBits w <<< 32)

/-- The poisoned form of a data word (R298). -/
def poisoned (w : Word) : Codeword := BitVec.ofNat 39 (w.toNat + (checkBits w ^^^ 0x7F) <<< 32)

/-- The data bits of a codeword. -/
def dataOf (c : Codeword) : Word := BitVec.ofNat 32 c.toNat

/-- The syndrome of R299. -/
def syndrome (c : Codeword) : Nat := checkBits (dataOf c) ^^^ (c.toNat >>> 32)

/-- Outcome of a read (R299). -/
inductive EccRead where
  | correct (w : Word)
  | corrected (w : Word)
  | uncorrectable (w : Word) (syn : Nat)
  deriving DecidableEq, Repr

/-- Reads a codeword (R299). -/
def eccRead (c : Codeword) : EccRead :=
  let s := syndrome c
  if s = 0 then .correct (dataOf c)
  else if s ∈ [1, 2, 4, 8, 16, 32, 64] then .corrected (dataOf c)
  else match secdedCols.findIdx? (· == s) with
    | some j => .corrected (dataOf c ^^^ BitVec.ofNat 32 (2 ^ j))
    | none => .uncorrectable (dataOf c) s

/-- The word a read delivers. -/
def EccRead.word : EccRead → Word
  | .correct w => w
  | .corrected w => w
  | .uncorrectable w _ => w

/-! ### CRCs -/

/-- `k` shift steps of a most-significant-bit-first CRC of width `n`. -/
def crcShift (n poly : Nat) : Nat → Nat → Nat
  | 0, c => c
  | k + 1, c => crcShift n poly k (if c.testBit (n - 1) then (2 * c) % 2 ^ n ^^^ poly else (2 * c) % 2 ^ n)

/-- CRC-16 of R350 over bytes, most significant bit first. -/
def crc16 (bs : List Byte) : BitVec 16 :=
  BitVec.ofNat 16 (bs.foldl (fun c b => crcShift 16 0x1021 8 (c ^^^ (b.toNat <<< 8))) 0xFFFF)

/-- `k` shift steps of a reflected CRC. -/
def crcShiftR (poly : Nat) : Nat → Nat → Nat
  | 0, c => c
  | k + 1, c => crcShiftR poly k (if c.testBit 0 then (c / 2) ^^^ poly else c / 2)

/-- A reflected 32-bit CRC with initial value and final complement of all ones. -/
def crc32With (poly : Nat) (bs : List Byte) : Word :=
  BitVec.ofNat 32 (bs.foldl (fun c b => crcShiftR poly 8 (c ^^^ b.toNat)) 0xFFFFFFFF ^^^ 0xFFFFFFFF)

/-- CRC-32 of R395. PRESUMED (log 11): reflected, as IEEE 802.3 transmits it. -/
def crc32 (bs : List Byte) : Word := crc32With 0xEDB88320 bs

/-- CRC-32C of R438. PRESUMED (log 11): reflected. -/
def crc32c (bs : List Byte) : Word := crc32With 0x82F63B78 bs

/-! ### SHA-256 (FIPS 180-4) -/

/-- Round constants, first half. -/
def shaK0 : List Nat :=
  [0x428a2f98, 0x71374491, 0xb5c0fbcf, 0xe9b5dba5, 0x3956c25b, 0x59f111f1, 0x923f82a4, 0xab1c5ed5] ++
  [0xd807aa98, 0x12835b01, 0x243185be, 0x550c7dc3, 0x72be5d74, 0x80deb1fe, 0x9bdc06a7, 0xc19bf174] ++
  [0xe49b69c1, 0xefbe4786, 0x0fc19dc6, 0x240ca1cc, 0x2de92c6f, 0x4a7484aa, 0x5cb0a9dc, 0x76f988da] ++
  [0x983e5152, 0xa831c66d, 0xb00327c8, 0xbf597fc7, 0xc6e00bf3, 0xd5a79147, 0x06ca6351, 0x14292967]

/-- Round constants, second half. -/
def shaK1 : List Nat :=
  [0x27b70a85, 0x2e1b2138, 0x4d2c6dfc, 0x53380d13, 0x650a7354, 0x766a0abb, 0x81c2c92e, 0x92722c85] ++
  [0xa2bfe8a1, 0xa81a664b, 0xc24b8b70, 0xc76c51a3, 0xd192e819, 0xd6990624, 0xf40e3585, 0x106aa070] ++
  [0x19a4c116, 0x1e376c08, 0x2748774c, 0x34b0bcb5, 0x391c0cb3, 0x4ed8aa4a, 0x5b9cca4f, 0x682e6ff3] ++
  [0x748f82ee, 0x78a5636f, 0x84c87814, 0x8cc70208, 0x90befffa, 0xa4506ceb, 0xbef9a3f7, 0xc67178f2]

/-- Initial hash value. -/
def shaInit : List Word :=
  [0x6a09e667, 0xbb67ae85, 0x3c6ef372, 0xa54ff53a, 0x510e527f, 0x9b05688c, 0x1f83d9ab, 0x5be0cd19]

/-- Extends the message schedule, kept newest first, by `k` words. -/
def shaSchedule : Nat → List Word → List Word
  | 0, w => w
  | k + 1, w =>
    let w15 := nth w 14 0
    let w2 := nth w 1 0
    let s0 := w15.rotateRight 7 ^^^ w15.rotateRight 18 ^^^ (w15 >>> 3)
    let s1 := w2.rotateRight 17 ^^^ w2.rotateRight 19 ^^^ (w2 >>> 10)
    shaSchedule k ((nth w 15 0 + s0 + nth w 6 0 + s1) :: w)

/-- One round on the eight working variables. -/
def shaRound (v : List Word) (k w : Word) : List Word :=
  match v with
  | [a, b, c, d, e, f, g, h] =>
    let s1 := e.rotateRight 6 ^^^ e.rotateRight 11 ^^^ e.rotateRight 25
    let ch := (e &&& f) ^^^ (~~~e &&& g)
    let t1 := h + s1 + ch + k + w
    let s0 := a.rotateRight 2 ^^^ a.rotateRight 13 ^^^ a.rotateRight 22
    let mj := (a &&& b) ^^^ (a &&& c) ^^^ (b &&& c)
    [t1 + (s0 + mj), a, b, c, d + t1, e, f, g]
  | _ => v

/-- A big-endian word of a block. -/
def beWord : List Byte → Word
  | [a, b, c, d] => BitVec.ofNat 32 (((a.toNat * 256 + b.toNat) * 256 + c.toNat) * 256 + d.toNat)
  | _ => 0

/-- Compresses one 64-byte block. -/
def shaBlock (h : List Word) (block : List Byte) : List Word :=
  let ws := (List.range 16).map (fun i => beWord ((block.drop (4 * i)).take 4))
  let sched := (shaSchedule 48 ws.reverse).reverse
  let out := ((shaK0 ++ shaK1).zip sched).foldl (fun v kw => shaRound v (BitVec.ofNat 32 kw.1) kw.2) h
  (h.zip out).map (fun p => p.1 + p.2)

/-- `n` blocks of a padded message. -/
def shaBlocks : Nat → List Word → List Byte → List Word
  | 0, h, _ => h
  | n + 1, h, bs => shaBlocks n (shaBlock h (bs.take 64)) (bs.drop 64)

/-- A digest's 32 bytes as a number, byte 0 least significant (R4). -/
def sha256 (bs : List Byte) : Digest :=
  let len := bs.length
  let zeros := (119 - len % 64) % 64
  let padded := bs ++ [0x80#8] ++ List.replicate zeros 0 ++ (leBytes 8 (len * 8)).reverse
  let h := shaBlocks (padded.length / 64) shaInit padded
  BitVec.ofNat 256 (fromLe (h.flatMap (fun w => (leBytes 4 w.toNat).reverse)))

/-! ### The Pepper block function (R340) -/

/-- A ChaCha quarter round on a list of 16 words. -/
def quarter (s : List Word) (a b c d : Nat) : List Word :=
  let va := nth s a 0; let vb := nth s b 0; let vc := nth s c 0; let vd := nth s d 0
  let va := va + vb; let vd := (vd ^^^ va).rotateLeft 16
  let vc := vc + vd; let vb := (vb ^^^ vc).rotateLeft 12
  let va := va + vb; let vd := (vd ^^^ va).rotateLeft 8
  let vc := vc + vd; let vb := (vb ^^^ vc).rotateLeft 7
  (((s.set a va).set b vb).set c vc).set d vd

/-- One double round. -/
def doubleRound (s : List Word) : List Word :=
  let s := quarter (quarter (quarter (quarter s 0 4 8 12) 1 5 9 13) 2 6 10 14) 3 7 11 15
  quarter (quarter (quarter (quarter s 0 5 10 15) 1 6 11 12) 2 7 8 13) 3 4 9 14

/-- The 512-bit output block for a seed, block counter and step word (R340), bit n of byte k at bit 8k + n. -/
def pepperBlock (seed : Digest) (counter step : Nat) : BitVec 512 :=
  let key := (List.range 8).map (fun i => BitVec.ofNat 32 (bits seed (32 * i) 32))
  let s : List Word := [0x61707865#32, 0x3320646e#32, 0x79622d32#32, 0x6b206574#32] ++ key ++
    [BitVec.ofNat 32 counter, BitVec.ofNat 32 (counter >>> 32), BitVec.ofNat 32 step, BitVec.ofNat 32 (step >>> 32)]
  let o := doubleRound (doubleRound (doubleRound (doubleRound s)))
  BitVec.ofNat 512 (fromLe ((s.zip o).flatMap (fun p => leBytes 4 (p.1 + p.2).toNat)))

/-- The step word of a stream (R342): the training-step number for purposes 0x0 to 0x7, zero for 0x8 to 0xF. -/
def pepperStepWord (stream : BitVec 24) (step : Word) : Nat :=
  if bits stream 20 4 < 8 then step.toNat else 0

/-- Whether a stream's purpose is reserved (R342, R625). -/
def reservedPurpose (stream : BitVec 24) : Bool :=
  let p := bits stream 20 4
  p == 7 || decide (10 ≤ p)

/-- `width` bits of the element at logical index `i` of a stream (R102, R119, R219, R341, R345). -/
def pepperBits (seed : Digest) (step : Word) (stream : BitVec 24) (width i : Nat) : Nat :=
  let per := 512 / width
  bits (pepperBlock seed (stream.toNat * 2 ^ 40 + i / per) (pepperStepWord stream step)) (width * (i % per)) width

end Sys2Proof.Machine
end

