-- ==== Sys2Proof/Machine/Num.lean ====
section
/-! DEFINITION. Number formats, exact values and rounding (03). -/

namespace Sys2Proof.Machine

/-- A value: NaN, a signed infinity, or the exact number (−1)^neg × m × 2^e, which keeps the sign of zero. -/
inductive Val where
  | nan
  | inf (neg : Bool)
  | num (neg : Bool) (m : Nat) (e : Int)
  deriving DecidableEq, Repr

/-- A binary format: fraction bits, least exponent, width, code of the largest finite magnitude, and whether the code above it is an infinity (R74, R77). -/
structure Grid where
  f : Nat
  emin : Int
  width : Nat
  maxCode : Nat
  ieee : Bool
  deriving DecidableEq, Repr

/-- FP4 E2M1 (R75). -/
def Grid.fp4 : Grid := ⟨1, 0, 4, 7, false⟩
/-- FP8 E4M3 (R77). -/
def Grid.e4m3 : Grid := ⟨3, -6, 8, 0x7E, false⟩
/-- FP8 E5M2 (R77). -/
def Grid.e5m2 : Grid := ⟨2, -14, 8, 0x7B, true⟩
/-- BF16 (R79). -/
def Grid.bf16 : Grid := ⟨7, -126, 16, 0x7F7F, true⟩
/-- FP32, IEEE 754 binary32 (R79). -/
def Grid.fp32 : Grid := ⟨23, -126, 32, 0x7F7FFFFF, true⟩
/-- IEEE 754 binary64 (R81). -/
def Grid.fp64 : Grid := ⟨52, -1022, 64, 0x7FEFFFFFFFFFFFFF, true⟩

/-- The grid of an element format; integers have none and take FP32's. -/
def grid : Fmt → Grid
  | .fp4 => .fp4 | .e4m3 => .e4m3 | .e5m2 => .e5m2 | .bf16 => .bf16 | .fp32 => .fp32 | .u32 => .fp32

/-- Bits of an element (R74). -/
def fmtWidth : Fmt → Nat
  | .fp4 => 4 | .e4m3 => 8 | .e5m2 => 8 | .bf16 => 16 | .fp32 => 32 | .u32 => 32

/-- The value that a code denotes (R74 to R79); the narrow formats have no negative zero (R78). -/
def Grid.decode (g : Grid) (code : Nat) : Val :=
  let mag := code % 2 ^ (g.width - 1)
  let neg := code.testBit (g.width - 1) && (decide (16 ≤ g.width) || mag != 0)
  if g.maxCode < mag then
    if g.ieee && mag == g.maxCode + 1 then .inf neg else .nan
  else
    let e := mag >>> g.f
    let m := mag % 2 ^ g.f
    if e = 0 then .num neg m (g.emin - g.f) else .num neg (2 ^ g.f + m) (Int.ofNat e - 1 + g.emin - g.f)

/-- The canonical NaN (R81). -/
def Grid.nanCode (g : Grid) : Nat :=
  if g.ieee then (if g.width = 8 then 0x7E else g.maxCode + 1 + 2 ^ (g.f - 1)) else 2 ^ (g.width - 1) - 1

/-- ⌊log2 (n / d)⌋ for positive n and d. -/
def floorLog2 (n d : Nat) : Int :=
  let l : Int := (Nat.log2 n : Int) - Nat.log2 d
  let ok := if 0 ≤ l then d * 2 ^ l.toNat ≤ n else d ≤ n * 2 ^ (-l).toNat
  if ok then l else l - 1

/-- n / d × 2^k as a fraction. -/
def scaleFrac (n d : Nat) (k : Int) : Nat × Nat :=
  if 0 ≤ k then (n * 2 ^ k.toNat, d) else (n, d * 2 ^ (-k).toNat)

/-- Rounds the positive magnitude n / d onto the grid as if it had no largest value, and gives the code (R99, R100). `u` is the Pepper value of SR. -/
def Grid.roundMag (g : Grid) (mode : Rounding) (u : Nat) (n d : Nat) : Nat :=
  let q : Int := max (floorLog2 n d) g.emin - g.f
  let p := scaleFrac n d (-q)
  let a := p.1 / p.2
  let r := p.1 % p.2
  let up := match mode with
    | .rne => decide (p.2 < 2 * r) || (decide (2 * r = p.2) && a % 2 == 1)
    | .rz => false
    | .sr => decide (u < r * 65536 / p.2)
  (q - (g.emin - g.f)).toNat * 2 ^ g.f + a + flag up

/-- Whether n / d exceeds (strictly, or from it on) the magnitude that a finite code denotes. -/
def Grid.beyond (g : Grid) (code n d : Nat) (strict : Bool) : Bool :=
  match g.decode code with
  | .num _ m e =>
    let p := scaleFrac m 1 e
    if strict then decide (p.1 * d < n * p.2) else decide (p.1 * d ≤ n * p.2)
  | _ => false

/-- The magnitude code of n / d under a rounding mode, with the overflow rules of R82 and R101. -/
def Grid.magCode (g : Grid) (mode : Rounding) (u : Nat) (n d : Nat) : Nat :=
  if n = 0 then 0
  else if g.ieee && g.width != 8 then
    match mode with
    | .rne => min (g.roundMag .rne u n d) (g.maxCode + 1)
    | .rz => min (g.roundMag .rz u n d) g.maxCode
    | .sr => if g.beyond g.maxCode n d false then min (g.roundMag .rne u n d) (g.maxCode + 1) else g.roundMag .sr u n d
  else if g.beyond g.maxCode n d false then g.maxCode
  else g.roundMag mode u n d

/-- Whether zero keeps its sign when written (R78: the narrow formats write the all-zero code). -/
def Grid.signedZero (g : Grid) : Bool := decide (16 ≤ g.width)

/-- The code of (−1)^neg × n / d. -/
def Grid.fracCode (g : Grid) (mode : Rounding) (u : Nat) (neg : Bool) (n d : Nat) : Nat :=
  let c := g.magCode mode u n d
  if c = 0 && !g.signedZero then 0 else c + (if neg then 2 ^ (g.width - 1) else 0)

/-- The code of a value (R81, R82). E4M3 and FP4 have no infinity; E4M3 writes its NaN code. -/
def Grid.encode (g : Grid) (mode : Rounding) (u : Nat) : Val → Nat
  | .nan => g.nanCode
  | .inf neg => if g.ieee then g.maxCode + 1 + (if neg then 2 ^ (g.width - 1) else 0) else g.nanCode
  | .num neg m e => let p := scaleFrac m 1 e; g.fracCode mode u neg p.1 p.2

/-- Whether a finite result saturates: it exceeds the largest finite value and is written as that value (R224). -/
def Grid.saturates (g : Grid) (mode : Rounding) : Val → Bool
  | .num _ m e =>
    let p := scaleFrac m 1 e
    m != 0 && g.beyond g.maxCode p.1 p.2 true && g.magCode mode 0 p.1 p.2 == g.maxCode
  | _ => false

/-! ### Exact arithmetic on values -/

/-- Is the value a zero. -/
def Val.isZero : Val → Bool
  | .num _ m _ => m == 0
  | _ => false

/-- The sign bit. -/
def Val.neg : Val → Bool
  | .nan => false
  | .inf n => n
  | .num n _ _ => n

/-- The value with its sign reversed. -/
def Val.negate : Val → Val
  | .nan => .nan
  | .inf n => .inf (!n)
  | .num n m e => .num (!n) m e

/-- The magnitude. -/
def Val.abs : Val → Val
  | .nan => .nan
  | .inf _ => .inf false
  | .num _ m e => .num false m e

/-- NaN or infinite. -/
def Val.special : Val → Bool
  | .num _ _ _ => false
  | _ => true

/-- m × 2^(e − k) as an integer, for k ≤ e. -/
def shiftInt (neg : Bool) (m : Nat) (e k : Int) : Int :=
  let v : Int := Int.ofNat (m * 2 ^ (e - k).toNat)
  if neg then -v else v

/-- Exact sum; a sum of opposite values is +0, and −0 only of two −0 (IEEE 754 under RNE). -/
def Val.add : Val → Val → Val
  | .nan, _ => .nan
  | _, .nan => .nan
  | .inf a, .inf b => if a = b then .inf a else .nan
  | .inf a, _ => .inf a
  | _, .inf b => .inf b
  | .num n1 m1 e1, .num n2 m2 e2 =>
    if m1 = 0 && m2 = 0 then .num (n1 && n2) 0 0
    else
      let k := min e1 e2
      let s := shiftInt n1 m1 e1 k + shiftInt n2 m2 e2 k
      .num (decide (s < 0)) s.natAbs k

/-- Exact product; zero times infinity is NaN. -/
def Val.mul : Val → Val → Val
  | .nan, _ => .nan
  | _, .nan => .nan
  | .inf a, .inf b => .inf (a != b)
  | .inf a, .num n m _ => if m = 0 then .nan else .inf (a != n)
  | .num n m _, .inf b => if m = 0 then .nan else .inf (n != b)
  | .num n1 m1 e1, .num n2 m2 e2 => .num (n1 != n2) (m1 * m2) (e1 + e2)

/-- −1, 0 or 1 as a is below, equal to or above b, zeros equal, for values that are not NaN. -/
def Val.cmp (a b : Val) : Int :=
  match a, b with
  | .inf n, .inf m => if n = m then 0 else if n then -1 else 1
  | .inf n, _ => if n then -1 else 1
  | _, .inf m => if m then 1 else -1
  | .num n1 m1 e1, .num n2 m2 e2 =>
    let k := min e1 e2
    let d := shiftInt n1 m1 e1 k - shiftInt n2 m2 e2 k
    if d < 0 then -1 else if d = 0 then 0 else 1
  | _, _ => 0

/-- 2^e. -/
def Val.pow2 (e : Int) : Val := .num false 1 e

/-- An integer as a value. -/
def Val.ofInt (i : Int) (e : Int) : Val := .num (decide (i < 0)) i.natAbs e

/-! ### FP32 and binary64 operations, each rounded once under RNE (R80, R204) -/

/-- The value of an FP32 code. -/
def f32 (w : Word) : Val := Grid.fp32.decode w.toNat
/-- Rounds to FP32 under RNE. -/
def toF32 (v : Val) : Word := BitVec.ofNat 32 (Grid.fp32.encode .rne 0 v)
/-- The value of a binary64 code. -/
def f64 (w : Dword) : Val := Grid.fp64.decode w.toNat
/-- Rounds to binary64 under RNE. -/
def toF64 (v : Val) : Dword := BitVec.ofNat 64 (Grid.fp64.encode .rne 0 v)

/-- The canonical NaN of FP32 (R81). -/
def nan32 : Word := 0x7FC00000#32
/-- The canonical NaN of binary64 (R81). -/
def nan64 : Dword := 0x7FF8000000000000#64

/-- FP32 sum. -/
def fadd (a b : Word) : Word := toF32 ((f32 a).add (f32 b))
/-- FP32 difference. -/
def fsub (a b : Word) : Word := toF32 ((f32 a).add (f32 b).negate)
/-- FP32 product. -/
def fmul (a b : Word) : Word := toF32 ((f32 a).mul (f32 b))
/-- a × b + c formed exactly and rounded once (R204). -/
def ffma (a b c : Word) : Word := toF32 (((f32 a).mul (f32 b)).add (f32 c))

/-- The quotient of two values, rounded once on a grid. -/
def Grid.divide (g : Grid) (a b : Val) : Nat :=
  match a, b with
  | .nan, _ => g.nanCode
  | _, .nan => g.nanCode
  | .inf _, .inf _ => g.nanCode
  | .inf n, .num k _ _ => g.encode .rne 0 (.inf (n != k))
  | .num n _ _, .inf k => g.fracCode .rne 0 (n != k) 0 1
  | .num n m e, .num k l x =>
    if l = 0 then (if m = 0 then g.nanCode else g.encode .rne 0 (.inf (n != k)))
    else let p := scaleFrac m l (e - x); g.fracCode .rne 0 (n != k) p.1 p.2

/-- ⌊√n⌋, bit by bit from bit `k` down. -/
def isqrtFrom : Nat → Nat → Nat → Nat
  | 0, n, r => if (r + 1) * (r + 1) ≤ n then r + 1 else r
  | k + 1, n, r =>
    let r' := r + 2 ^ (k + 1)
    isqrtFrom k n (if r' * r' ≤ n then r' else r)

/-- ⌊√n⌋. -/
def isqrt (n : Nat) : Nat := isqrtFrom (Nat.log2 n / 2 + 1) n 0

/-- √(n / d) correctly rounded, through a root with spare bits and a sticky bit. -/
def Grid.rootFrac (g : Grid) (n d : Nat) : Nat :=
  let l := floorLog2 n d
  let k : Int := g.f + 4 - l / 2
  let p := scaleFrac n d (2 * k)
  let r := isqrt (p.1 / p.2)
  let exact := decide (r * r * p.2 = p.1)
  g.encode .rne 0 (.num false (2 * r + flag (!exact)) (-k - 1))

/-- Square root (IEEE 754: √−0 is −0, negative operands give NaN). -/
def Grid.root (g : Grid) : Val → Nat
  | .nan => g.nanCode
  | .inf n => if n then g.nanCode else g.encode .rne 0 (.inf false)
  | .num n m e =>
    if m = 0 then g.encode .rne 0 (.num n 0 0)
    else if n then g.nanCode
    else let p := scaleFrac m 1 e; g.rootFrac p.1 p.2

/-- Reciprocal square root, correctly rounded; of ±0 it is ±∞. DEDUCED (log 9): IEEE 754's rSqrt. -/
def Grid.rroot (g : Grid) : Val → Nat
  | .nan => g.nanCode
  | .inf n => if n then g.nanCode else 0
  | .num n m e =>
    if m = 0 then g.encode .rne 0 (.inf n)
    else if n then g.nanCode
    else let p := scaleFrac m 1 e; g.rootFrac p.2 p.1

/-- FP32 quotient. -/
def fdiv (a b : Word) : Word := BitVec.ofNat 32 (Grid.fp32.divide (f32 a) (f32 b))
/-- FP32 square root. -/
def fsqrt (a : Word) : Word := BitVec.ofNat 32 (Grid.fp32.root (f32 a))
/-- FP32 reciprocal square root. -/
def frsqrt (a : Word) : Word := BitVec.ofNat 32 (Grid.fp32.rroot (f32 a))

/-- a is below b in the ordering of R622, in which +0 is larger than −0. -/
def belowR622 (a b : Val) : Bool :=
  if a.isZero && b.isZero then a.neg && !b.neg else decide (a.cmp b < 0)

/-- Is an FP32 code a NaN. -/
def isNan (w : Word) : Bool := f32 w == .nan

/-- Maximum (R416, R622). -/
def fmax (a b : Word) : Word :=
  if isNan a || isNan b then nan32 else if belowR622 (f32 a) (f32 b) then b else a

/-- Minimum (R622). -/
def fmin (a b : Word) : Word :=
  if isNan a || isNan b then nan32 else if belowR622 (f32 b) (f32 a) then b else a

/-- The relations of R623. -/
def relHolds (r : Rel) (a b : Val) : Bool :=
  let un := a == .nan || b == .nan
  match r with
  | .unordered => un
  | .ne => un || a.cmp b != 0
  | .lt => !un && decide (a.cmp b < 0)
  | .le => !un && decide (a.cmp b ≤ 0)
  | .eq => !un && a.cmp b == 0
  | .ge => !un && decide (0 ≤ a.cmp b)
  | .gt => !un && decide (0 < a.cmp b)

/-- 1.0 in FP32. -/
def one32 : Word := 0x3F800000#32

/-! ### Scales (R85 to R91) -/

/-- What a scale code means. -/
inductive ScaleVal where
  | zero | nan | reserved | scale (v : Val)
  deriving DecidableEq, Repr

/-- Meaning of a group-scale code (R85, R86). -/
def scaleMeaning (f : ScaleFmt) (c : Byte) : ScaleVal :=
  match f with
  | .e8m0 => if c = 0 then .zero else if c = 0xFF then .nan else .scale (.pow2 (Int.ofNat c.toNat - 127))
  | .ue4m3 =>
    if c = 0 then .zero else if c = 0x7F then .nan else if 0x80 ≤ c.toNat then .reserved
    else .scale (Grid.e4m3.decode c.toNat)

/-- R88: is a row scale a NaN; positive, normal and finite; or invalid. -/
def rowScaleInvalid (w : Word) : Bool :=
  match f32 w with
  | .nan => false
  | .inf _ => true
  | .num neg m _ => neg || decide (m < 2 ^ 23)

/-- The value of an element of a scaled tensor, in the order of R90. -/
def elementValue (g : Grid) (sf : ScaleFmt) (code : Nat) (scale : Byte) (row : Option Word) : Val :=
  let r : Option Val := match row with
    | none => some (.num false 1 0)
    | some w => if rowScaleInvalid w || isNan w then none else some (f32 w)
  match r with
  | none => .nan
  | some rv =>
    match scaleMeaning sf scale with
    | .nan => .nan
    | .reserved => .nan
    | .zero => .num false 0 0
    | .scale s => ((g.decode code).mul s).mul rv

/-- R94: the pieces of y = x / g, for y as a fraction with sign. -/
def splitPieces : Nat → Bool → Nat → Nat → List Nat
  | 0, _, _, _ => []
  | k + 1, neg, n, d =>
    let c := Grid.e4m3.fracCode .rne 0 neg n d
    match Grid.e4m3.decode c with
    | .num cn m e =>
      -- (y − p) × 16 over the common denominator
      let p := scaleFrac m 1 e
      let a : Int := (if neg then -1 else 1) * Int.ofNat (n * p.2) - (if cn then -1 else 1) * Int.ofNat (p.1 * d)
      c :: splitPieces k (decide (a < 0)) (a.natAbs * 16) (d * p.2)
    | _ => c :: splitPieces k neg 0 1

end Sys2Proof.Machine
end

