-- ==== Sys2Proof/Machine/Sparse.lean ====
section
/-! DEFINITION. Reading and writing sparse data in its one canonical form; `d` says what an unlisted key reads as. -/

namespace Sys2Proof.Machine

/-- The value at key `k`. -/
def Sparse.look {α : Type} (d : Nat → α) : Sparse α → Nat → α
  | [], k => d k
  | (j, v) :: r, k => if j = k then v else Sparse.look d r k

/-- Leaves out key `k`. -/
def Sparse.erase {α : Type} (m : Sparse α) (k : Nat) : Sparse α := m.filter (fun x => x.1 != k)

/-- Lists `v` at key `k`, before the first larger key. -/
def Sparse.place {α : Type} : Sparse α → Nat → α → Sparse α
  | [], k, v => [(k, v)]
  | (j, w) :: r, k, v => if k < j then (k, v) :: (j, w) :: r else (j, w) :: Sparse.place r k v

/-- Sets key `k` to `v`, keeping the canonical form. -/
def Sparse.store {α : Type} [DecidableEq α] (d : Nat → α) (m : Sparse α) (k : Nat) (v : α) : Sparse α :=
  if v = d k then Sparse.erase m k else Sparse.place (Sparse.erase m k) k v

/-- Every key of `m` lies above `b`, keys rise strictly, and no entry holds its default. -/
def Sparse.above {α : Type} [DecidableEq α] (d : Nat → α) : Option Nat → Sparse α → Bool
  | _, [] => true
  | b, (j, v) :: r => (match b with | none => true | some x => decide (x < j)) && decide (v ≠ d j) && Sparse.above d (some j) r

/-- The canonical form (state it as `Sparse.wf d m = true`). -/
def Sparse.wf {α : Type} [DecidableEq α] (d : Nat → α) (m : Sparse α) : Bool := Sparse.above d none m

/-- Applies `f` to the value at key `k`. -/
def Sparse.modify {α : Type} [DecidableEq α] (d : Nat → α) (m : Sparse α) (k : Nat) (f : α → α) : Sparse α :=
  Sparse.store d m k (f (Sparse.look d m k))

/-- Applies `f` to every listed value, keeping the canonical form. -/
def Sparse.mapVals {α : Type} [DecidableEq α] (d : Nat → α) (f : α → α) (m : Sparse α) : Sparse α :=
  m.foldl (fun r x => Sparse.store d r x.1 (f x.2)) []

end Sys2Proof.Machine
end

