-- ==== Sys2Proof/Machine/State.lean ====
section
/-! DEFINITION. The state of the W4T2: every register, memory, queue, counter, mode and pin that the manual gives
the device, as plain data, with the queue of waiting commands (`pending`). -/

namespace Sys2Proof.Machine

/-- No command stops the model with a fault: every fault of the device is a fault record (R350) in the state. -/
inductive Fault where
  deriving DecidableEq, Repr

/-- Reasons for which a command has no meaning in the model. -/
inductive Refusal where
  /-- Raised by `exec` for a command whose meaning is not written (safe: the model stops). No arm raises it now. -/
  | notModelled (mnemonic : String)
  deriving DecidableEq, Repr

/-! ### Cores -/

/-- A declared region (R43, R207) with its epoch (R44) and the writer that owns the epoch (R49). -/
structure Region where
  base  : Nat
  size  : Nat
  epoch : BitVec 16
  owner : Option UnitRef
  deriving DecidableEq, Repr

/-- A core-local memory: codewords by word index (R298). `fill` is the free draw that unlisted words read as after a step boundary (R357), `none` after a gesso fill. -/
structure CoreMem where
  cells : Sparse Codeword
  fill  : Option Nat
  deriving DecidableEq, Repr

/-- A queued engine command with its tag (R39) and its position among the core's vector commands of the step (R514). -/
structure QCmd where
  cmd  : EngineCmd
  tag  : Tag
  vpos : Nat
  deriving DecidableEq, Repr

/-- A command that an engine has begun, and what its begin decided (R30, R47, R53, R58, R619). -/
structure Running where
  q          : QCmd
  noop       : Bool
  refused    : Bool
  hazard     : Bool
  suppressed : List Nat          -- regions, by core and region key, whose writes are suppressed (R48, R49)
  badReads   : List Nat          -- operand numbers whose read check failed (R50)
  begun      : Dword
  done       : Bool              -- its operation has been carried out
  released   : List Nat          -- operand numbers whose release took place
  status     : Dword             -- status word written at completion (R141)
  quant      : Option Dword      -- status word of the quantizer path used
  raised     : List Code         -- codes raised while it runs, each once (R91, R134, R191, R228)
  checks     : Nat               -- CMP_MX_CTL in force when it began (R583)
  copy       : BitVec 512        -- copy descriptor of a layout command, fetched when it began (R327)
  deriving DecidableEq, Repr

/-- An open exact block (R162): its long-register region, and what the matrix status word counts of it (R185). -/
structure ExactBlock where
  region : Nat
  anchor : Int
  two    : Bool
  oow    : Nat
  dropped : Bool
  terms  : Sparse Nat            -- group terms added, by row of the block
  deriving DecidableEq, Repr

/-- What is kept of a sampled vector command for its check slot (R378). -/
structure Sample where
  position : Nat
  written  : List Byte           -- what it wrote, upsets included
  clean    : List Byte           -- what its operands give
  phys     : Nat
  valid    : Bool                -- false: refused or a no-operation
  injected : Bool                -- an injection struck it (R382)
  extra    : Bool                -- firmware has re-executed it already (R379)
  deriving DecidableEq, Repr

/-- A remote range wanted by a read under way: the number of its request (log 26), the range, and the pieces that have come, as offset and bytes. -/
structure RemotePart where
  num  : BitVec 32
  addr : Dword
  len  : Nat
  got  : List (Nat × List Byte)
  deriving DecidableEq, Repr

/-- A read of a remote address under way (R275, R294): whether it is served from cache lines, and its ranges in order. -/
structure RemoteRead where
  cached : Bool
  parts  : List RemotePart
  deriving DecidableEq, Repr

/-- The state of one logical core. -/
structure CoreSt where
  queues   : Sparse (List QCmd)       -- by engine 0, 1, 2 (R27)
  stalled  : Option (Engine × EngineCmd)
  running  : Sparse (Option Running)  -- by engine
  tokens   : Sparse (BitVec 16)
  index    : BitVec 27
  vcount   : Nat
  regions  : Sparse (Option Region)   -- key 64 * space + id
  sp       : CoreMem
  acc      : CoreMem
  oc       : CoreMem
  palettes : Sparse Nat               -- key 4,096 * engine + entry (R35)
  blocks   : List ExactBlock
  pepper   : Sparse (Option (Digest × BitVec 24 × Nat × Nat)) -- last block per lane group: seed, stream, step word, block (R344)
  placeEpoch : BitVec 16
  dropSeen : Bool                     -- a drop was reported in this placement epoch (R371)
  samples  : List Sample
  remote   : Option RemoteRead
  tracePos : Nat
  traceFull : Bool
  deriving DecidableEq, Repr

/-- An update command held or running, with its tag and pushing core. -/
structure UQ where
  cmd : UpdateCmd
  tag : Tag
  by_ : CoreRef
  repeated : Bool                     -- its sequence number had already been received (R248)
  deriving DecidableEq, Repr

/-- A running update command. -/
structure URunning where
  q       : UQ
  noop    : Bool
  refused : Bool
  begun   : Dword
  done    : Bool
  hazard  : Bool                      -- its statistics record's epoch check failed (R48, R49)
  raised  : List Code                 -- codes raised while it runs, each once (R272, R322)
  deriving DecidableEq, Repr

/-- The state of one update unit. -/
structure UnitSt where
  held     : List UQ
  running  : Option URunning
  next     : Nat                      -- next sequence number to begin (R246)
  received : List Nat
  inService : Bool
  norm     : Dword                    -- partial norm so far, binary64 (R250)
  clip     : Word                     -- clip factor, FP32 (R252)
  flags    : Nat                      -- bits [36:32] of UU_STATUS as they stand in this step
  applied  : List (Nat × Nat × Nat)   -- tensor, first, count applied in the step (R249)
  pepper   : Sparse (Option (Digest × BitVec 24 × Nat × Nat))
  tracePos : Nat
  traceFull : Bool
  deriving DecidableEq, Repr

/-- STATE values of CMP_CORE_MAP. -/
inductive PhysState where
  | active | freeSpare | spareCarrying | quarantined | fusedOff | underTest
  deriving DecidableEq, Repr

/-- A physical core: its map entry and its in-field test (R373 to R377). -/
structure PhysCore where
  state   : PhysState
  logical : Option Nat                -- logical core carried
  segsLeft : Nat                      -- in-field test segments still to run
  due     : Bool
  retried : Bool                      -- the running segment has failed once
  waiting : Bool                      -- 0x0011 raised for this wait (R376)
  spare   : Option Nat                -- spare carrying its work during the test
  last    : Option Nat                -- logical core that it carried when it was fenced (R363, R371)
  deriving DecidableEq, Repr

/-- A confirmation test under way on a tile: of the two cores of a recurring mismatch (R361), or of the spare that is to take a quarantined core's work (R363). -/
inductive Confirm where
  | suspects (left bad : List Nat) (consumed : Nat) (record : BitVec 32) (leave : Bool) -- physical cores
  | spare (logical old spare : Nat) (record : BitVec 32) (history elimination : Bool)
  deriving DecidableEq, Repr

/-- Work left for the next step boundary (R361, R363), on physical cores. `leave` is false when an injection without consequence caused it (R383). -/
inductive Due where
  | quarantine (tile phys : Nat) (record : BitVec 32) (history elimination : Bool)
  | suspects (tile : Nat) (cores : List Nat) (consumed : Nat) (record : BitVec 32) (leave : Bool)
  deriving DecidableEq, Repr

/-! ### Fault records and the pentimento log -/

/-- A fault record (R350), CRC included. -/
structure Record where
  code   : Code
  unit   : UnitId
  flags  : BitVec 16
  placeEpoch : BitVec 16
  tag    : Dword
  time   : Dword
  addr   : Dword
  location : Word
  syndrome : Word
  temp   : BitVec 16
  volt   : BitVec 16
  step   : Word
  seq    : Word
  detail : Word
  crc    : BitVec 16
  deriving DecidableEq, Repr

/-- Kinds of entry of the MRAM retirement list (R316). -/
inductive Retired where
  | stripe (q i : Nat)                -- physical stripe
  | mapOut (q : Nat) (complete : Bool)
  | dead (q : Nat)
  | degraded (q : Nat)
  | withdrawn (n : Nat)
  deriving DecidableEq, Repr

/-- The MRAM (R18). -/
structure Mram where
  pinned   : Sparse (Option Record)   -- slots 0 to 65,535
  ring     : Sparse (Option Record)   -- ring positions 0 to 983,039
  pinnedUsed : Nat
  ringNext : Nat
  ringWrapped : Bool
  nextSeq  : BitVec 32
  pinnedFull : Bool                   -- 0x7010 has been raised (R386); DESIGN CHOICE (log 148): kept beside the log area of R18
  retirement : List Retired
  calibration : Sparse (Option Nat)   -- setting by unit, region and operating point (R578)
  energy   : Dword
  cause    : Byte                     -- cause of the last power-down (R610)
  deriving DecidableEq, Repr

/-- Boot flash (R558) and fuses (R558, R564). -/
structure Rom where
  slotA    : List Byte
  slotB    : List Byte
  nextSlot : Bool                     -- true: B
  cert     : List Byte
  grade240 : Bool
  fused    : List (Nat × Nat)         -- fused-off physical cores (tile, core)
  keyHash  : List Digest
  revoked  : List Bool
  minSvn   : Word
  serial   : Dword
  secret   : Digest
  deriving DecidableEq, Repr

/-! ### Stacked memory -/

/-- STATE of a stripe-map entry (R285). -/
inductive StripeState where
  | mapped | copying | free | spent | lost | withdrawn
  deriving DecidableEq, Repr

/-- A physical stripe: channel number and index (R277). -/
structure Phys where
  q : Nat
  i : Nat
  deriving DecidableEq, Repr

/-- A stripe-map entry (R285). -/
structure MapEntry where
  state : StripeState
  loc   : Phys
  loc2  : Option Phys
  deriving DecidableEq, Repr

/-- STATE of a channel (MEM_CHAN). -/
inductive ChanState where
  | inService | repairing | mappedOut | dead | degraded
  deriving DecidableEq, Repr

/-- A channel: MEM_CHAN fields, the count of the current 1 s window (R309), and whether its pending stripes came from a map-out. -/
structure Channel where
  state   : ChanState
  retired : Nat
  ceNow   : Nat
  ceLast  : Nat
  ue      : Nat
  pending : Bool
  fromMapOut : Bool
  whole   : Bool                      -- a degraded channel's record was applied at a reset: every stripe still on it is pending (R316; log 153)
  deriving DecidableEq, Repr

/-- A task of the repair engine (R313): empty a channel, or relocate one retired stripe. -/
inductive Repair where
  | mapOut (q : Nat)
  | stripe (n : Nat) (from_ : Phys)
  deriving DecidableEq, Repr

/-- Where a relocation stands in R311. -/
inductive RelocStage where
  | waitAck | ready | copying | draining
  deriving DecidableEq, Repr

/-- A relocation under way. -/
structure Reloc where
  entry   : Nat
  src     : Phys
  dst     : Phys
  reserve : Nat
  stage   : RelocStage
  mapOut  : Bool
  deriving DecidableEq, Repr

/-- The stacks and their map. -/
structure Mem where
  stack    : Sparse Codeword          -- by physical word: ((q * 1536 + i) * 32768 + w)
  map      : Sparse MapEntry          -- master copy
  replicas : Sparse MapEntry          -- key tile * 2^20 + entry (R285)
  usable   : Nat
  channels : Sparse Channel
  repairs  : List Repair
  relocs   : List Reloc
  toRetire : List Phys                -- stripes that earned retirement by an uncorrectable word or three passes (R308)
  mapOutDone : Nat                    -- DONE of MEM_REPAIR_STATUS
  exhausted : Bool                    -- 0x1007 raised (R319)
  varnish  : Sparse Nat               -- consecutive passes that corrected the word, by physical word (R308)
  lines    : List (Nat × Dword × Nat) -- cache lines, least recently used first: set, line address, way (R293)
  fetching : List (Dword × BitVec 32) -- lines being fetched, with the number of the request (R294)
  llrOn    : Bool                     -- last-level region in force (R291)
  deriving DecidableEq, Repr

/-! ### Programs and steps -/

/-- The loaded program (R468). -/
structure Program where
  id       : BitVec 12
  image    : Image
  seed     : Digest
  launch   : Option Dword
  begun    : Bool                     -- its launch time has come (R435)
  loadedOn : Fin 16                   -- ring of its LOAD_PROGRAM
  deriving DecidableEq, Repr

/-- The running step. -/
structure StepRun where
  ring     : Fin 16
  number   : Word
  arg      : Dword
  replay   : Bool
  start    : Dword
  applied  : Bool                     -- APPLIED of R487
  normSent : Bool                     -- the partial norm has left (R354)
  invalid  : Bool                     -- an invalidating fault has been raised
  globalNorm : Option Dword           -- S, when held (R251)
  skipped  : Bool                     -- R253
  noUpdates : Bool                    -- aborted without S (R425)
  abortReasons : List Nat             -- reasons of the aborted collectives
  causes   : List (BitVec 16 × Word)  -- statuses with the SEQ that set them (R487, R489)
  records  : Nat
  valueVary : Nat
  timingVary : Nat
  faults   : List (Code × UnitId × Word × Bool) -- silent and data errors of the run, with INJECTED (R359)
  closed   : List Nat                 -- gradient blocks closed (R263)
  launched : Nat                      -- buckets launched (R263)
  limited  : Bool
  stackResp : Bool
  tileResp : Bool
  aborted  : Bool                     -- program aborted under R60
  tileHot  : BitVec 16                -- highest tile temperature in the step (R546)
  stackHot : BitVec 16
  deriving DecidableEq, Repr

/-- The last step that began (R470). -/
structure LastStep where
  number   : Word
  applied  : Bool
  ended    : Bool
  deriving DecidableEq, Repr

/-- A silent or data error still to be classified (R359, R360): its record, the steps run since, and whether its step held a value-marked command. -/
structure Unclassified where
  code  : Code
  unit  : UnitId
  seq   : Word
  steps : Nat
  vary  : Bool
  injected : Bool
  permanent : Bool                    -- it has recurred in the replay that is running (R359)
  deriving DecidableEq, Repr

/-- The ledger entry of a step (R546). -/
structure Ledger where
  step : Word
  ok : Bool
  limited : Bool
  miss : Bool
  stackResp : Bool
  tileResp : Bool
  point : Nat
  start : Dword
  finish : Dword
  m : StepMeasure
  floorRatio : BitVec 16
  tileMax : BitVec 16
  stackMax : BitVec 16
  tokens : Nat
  perMwh : Dword
  temps : List (BitVec 16)            -- tile temperatures at its end, for R538
  deriving DecidableEq, Repr

/-! ### Fabric -/

/-- LINK of FAB_PORT_STATUS (R403). -/
inductive Link where
  | down | training | discovery | up | failed
  deriving DecidableEq, Repr

/-- A Lumbicy port. -/
structure Port where
  link     : Link
  plan     : Nat                      -- PLAN: 0 not checked, 1 to 6 (R411)
  inService : Bool
  partner  : Nat
  lanes    : Nat
  degraded : Bool                     -- came up with fewer than 4 lanes (R404)
  latency  : Word
  peer     : Option (BitVec 32 × BitVec 16 × Byte)
  txSeq    : BitVec 12
  rxNext   : BitVec 12
  nacked   : Bool                     -- a nack is out and its flit has not come (R398)
  replay   : List Flit                -- sequenced, unacknowledged (R399)
  sentAt   : List Dword               -- when each of them was last sent (R400)
  fruitless : Nat                     -- replays in a row without an advance of ACK
  waiting  : List Flit                -- flits waiting for a credit or replay room
  credits  : Sparse Nat               -- by virtual channel (R401)
  receive  : List Flit                -- received flits not yet assembled into a message
  heldMsg  : Option (BitVec 16 × Msg) -- message held by a message-delay injection (R436)
  heldFlit : Option Flit              -- flit held by a reorder injection (R436)
  struck   : Bool                     -- an injection has acted here since the last advance of ACK (R436)
  deriving DecidableEq, Repr

/-- A collective in flight. -/
structure Coll where
  spec     : CollSpec
  progress : Dword                    -- time of the last progress (R422)
  deadline : Dword
  extended : Nat                      -- total extension by beacons, ticks
  chunks   : Sparse Nat               -- messages sent, by destination device (R406)
  done     : Nat                      -- result elements held here
  deriving DecidableEq, Repr

/-- A message sent and not yet acknowledged (R408). -/
structure Outstanding where
  dst  : BitVec 16
  msg  : Msg
  port : Nat
  sentAt : Dword                      -- when it was last sent (R408)
  deriving DecidableEq, Repr

/-- A peer of the job (R420). -/
structure Peer where
  id     : BitVec 16
  heard  : Dword
  probed : Option Dword               -- when the probe that waits for an answer was sent (R420)
  unanswered : Nat
  lost   : Bool
  deriving DecidableEq, Repr

/-- The fabric of the device. -/
structure Fabric where
  ports    : Sparse Port
  rankActive : List (BitVec 16 × BitVec 16)   -- device id and placement epoch by rank (R480)
  rankShadow : List (BitVec 16 × BitVec 16)
  colls    : List Coll
  out      : List Outstanding
  accepted : List (BitVec 16 × BitVec 32 × BitVec 32 × BitVec 32) -- src, coll, chunk, step
  inbox    : List Msg                         -- messages assembled from flits
  peers    : List Peer
  stopped  : Bool                             -- a 105 °C stop is in force (R430)
  abortTimer : Option Dword
  early    : List (BitVec 32 × Nat)           -- bytes received for collectives not yet started here: number, bytes
  dropEpoch : Option (BitVec 16)              -- placement epoch in which a dropped message was last reported (R409)
  aborted  : List (BitVec 32)                 -- collectives of the running step that were aborted (R425)
  requests : BitVec 32                        -- remote-read requests sent (log 26)
  injectSeen : Nat                            -- flits or messages seen by an armed link injection (R436)
  noFabric : Bool                             -- R412 leaves the job without a fabric
  deriving DecidableEq, Repr

/-- An open Ethernet session (R478). -/
structure Session where
  id     : BitVec 32
  port   : Nat
  base   : Dword
  len    : Dword
  peer   : BitVec 128
  refusedIn : Option Word             -- step in which 0x3050 was raised for it (R439)
  deriving DecidableEq, Repr

/-- Ethernet state. -/
structure Eth where
  up       : Sparse Bool
  sessions : List Session
  nacks    : List (BitVec 128 × Dword) -- last unknown-session NACK by source (R439)
  deriving DecidableEq, Repr

/-! ### Host interface -/

/-- A fetched descriptor: its slots, the order of its fetch over all rings, and the head after its fetch. -/
structure Desc where
  raw    : BitVec 512
  raw2   : BitVec 512
  order  : Nat
  head   : BitVec 16
  bad    : Bool                       -- malformed (R12, R456, R465)
  begun  : Bool
  deriving DecidableEq, Repr

/-- STATE of HIF_RING_STATUS. -/
inductive RingState where
  | disabled | enabled | halted | noVersion | badConfig
  deriving DecidableEq, Repr

/-- A submission ring. -/
structure Sq where
  state   : RingState
  version : Byte
  head    : BitVec 16
  tail    : BitVec 32                 -- SQ_TAIL as last written
  stopped : Bool                      -- fetching stopped
  fetched : List Desc
  deriving DecidableEq, Repr

/-- A completion entry (R487), PHASE aside. -/
structure Entry where
  status  : BitVec 16
  kind    : Byte
  sq      : BitVec 4
  sqHead  : BitVec 16
  version : Byte
  applied : Bool
  cookie  : Word
  step    : Word
  firstSeq : Word
  detail  : Word
  valueVary : BitVec 16
  timingVary : BitVec 16
  irq     : Bool                      -- the descriptor set IRQ
  deriving DecidableEq, Repr

/-- A completion ring. -/
structure Cq where
  enabled : Bool
  head    : BitVec 32                 -- CQ_HEAD as last written
  tail    : Nat
  phase   : Bool
  used    : Nat                       -- entries not yet released
  held    : List Entry
  since   : Nat                       -- entries since the last message (R491)
  deriving DecidableEq, Repr

/-- An MSI-X vector (R445): address, data, mask and pending bit. -/
structure MsixVec where
  addr    : Dword
  data    : Word
  masked  : Bool
  pending : Bool
  deriving DecidableEq, Repr

/-- Who asked for the sanitize operation under way (R445, R492). -/
inductive SanitizeBy where
  | ring (r : Fin 16) | flr | d3hot
  deriving DecidableEq, Repr

/-- A restore under way (R477): its parts in the order of their completion, as offset and bytes, and whether they have covered the stream. -/
structure Restore where
  parts : List (Nat × List Byte)
  complete : Bool
  deriving DecidableEq, Repr

/-- The host interface. -/
structure HostIf where
  sqs      : Sparse Sq
  cqs      : Sparse Cq
  vectors  : Sparse MsixVec
  fetchNo  : Nat
  pool     : List (Fin 16 × Desc)     -- pooled message buffers, oldest first (R479)
  sanitizing : Option SanitizeBy
  modules  : Nat                      -- UCIe modules carrying the link
  d3hot    : Bool
  restore  : Option Restore           -- kept until the next RUN_STEP begins (R477, R522)
  deriving DecidableEq, Repr

/-! ### Power, time, management, security, pins -/

/-- A temperature sensor's unit: PWR_TILE, PWR_STACK fields. -/
structure Therm where
  temp  : BitVec 16
  max   : BitVec 16
  state : Nat                         -- 0 normal, 1 first response, 2 stopped
  deriving DecidableEq, Repr

/-- Power, limiter, governor and ledger. -/
structure Power where
  point    : Nat
  miss     : Bool
  rails    : Sparse Nat               -- VCORE0 to VCORE3 in mV
  target   : Nat                      -- voltage of the point set, mV
  trim     : Nat                      -- limiter trim, mV
  hold     : Nat                      -- hold share in 1/64 (R535)
  below    : Nat                      -- 10 µs samples in a row below 94 % of the cap
  limiting : Bool
  watts    : Nat
  vin      : BitVec 16
  tiles    : Sparse Therm
  stackTherms   : Sparse Therm
  energy   : Dword
  energyFrac : Nat                    -- 1/100 mJ not yet in `energy`
  floorRatio : BitVec 16
  ledger   : Sparse (Option Ledger)
  ledgerNext : Nat
  ledgerWrapped : Bool
  lastGood : Option Ledger            -- last step with status 0x0000 since the load (R538)
  chosen   : Bool                     -- the governor has run since the last step boundary (R536)
  later    : Option (Nat × Bool)      -- a choice that came too late for the running step, with its MISS (R569)
  deriving DecidableEq, Repr

/-- The global counter and its alignment (R432, R433, R550, R551). -/
structure Clock where
  time     : BitVec 72                -- in 1/256 tick
  phase    : Fin 5
  slew     : Int                      -- offset still to slew, 1/256 tick
  slewWait : Nat                      -- units since the last unit slewed
  stepped  : Bool
  good     : Nat                      -- exchanges in a row within ±2 ns
  aligned  : Bool
  onAlt    : Bool
  offset   : Word
  deriving DecidableEq, Repr

/-- Where start-up stands (R554 to R560). -/
inductive Boot where
  | off | ramping | atReset | rom | firmware | ready | recovery
  deriving DecidableEq, Repr

/-- A monitor (R580). -/
structure Monitor where
  min  : Word
  max  : Word
  last : Word
  bins : Sparse Word
  deriving DecidableEq, Repr

/-- Management complex, turns, telemetry, calibration. -/
structure Mgmt where
  boot     : Boot
  slotB    : Bool                     -- slot booted or being tried
  tried    : Bool                     -- one slot has been refused
  halted   : Bool
  resetting : Bool                    -- a management reset is under way
  resets   : List Dword               -- times of management resets (R574)
  queue    : List Record              -- record queue (R571)
  lost     : Nat                      -- records lost since the last 0x7030
  turns    : Word
  late     : Bool
  cancelled : Bool
  refilling : Bool
  heldWrites : List (Nat × Nat × Dword) -- offset, width, value, oldest first (R583)
  busy     : List Byte
  overloadRun : List Nat              -- windows in a row in which each core was busy for more than 90 %
  overload : Bool
  factor   : Nat                      -- telemetry interval multiple
  drainStopped : Bool
  secWait  : Bool                     -- attestation and firmware update wait (step 3 of R570)
  telemSeq : Word
  telemOff : Bool                     -- 0x7040 raised for this ring
  settings : Sparse (Option Nat)      -- calibration setting by unit, region and operating point; none: the fused floor
  monitors : Sparse Monitor
  traceOn  : Bool                     -- tracing in force (R620)
  fwVersion : Word
  runSvn   : Word
  imageDigest : Digest                -- digest extended into M1 (R574)
  deriving DecidableEq, Repr

/-- Security block (R561 to R566). -/
structure Sec where
  meas     : Sparse Digest
  idKey    : Digest
  fwStatus : Nat
  fwBusy   : Bool                     -- an update runs (R562)
  attStatus : Nat
  nonce    : Digest
  deriving DecidableEq, Repr

/-- Sideband pins, I3C target and TAP (R600 to R611). -/
structure Pins where
  enable   : Bool
  resetN   : Bool
  powerGood : Bool
  latch    : Bool                     -- latches of R528 and R545
  tripped  : Bool                     -- THERMTRIP_N held low
  input    : Bool                     -- input voltage present
  inRange  : Bool                     -- input within its operating range
  charged  : Bool                     -- hold-up capacitance charged (R606)
  ptr      : Nat
  page     : List Byte                -- I3C status page (R610)
  cells    : List Bool                -- boundary cells
  bypassBit : Bool
  deriving DecidableEq, Repr

/-- What the device sends out (log 3). -/
inductive Out where
  | host (addr : Dword) (bytes : List Byte)
  | msix (v : Nat) (addr : Dword) (data : Word)
  | unsupported (write : Bool)
  | completerAbort (write : Bool)
  | barOk
  | flit (port : Nat) (f : Flit)
  | eth (port : Nat) (peer : BitVec 128) (type : Byte) (session : BitVec 32) (offset : Dword) (seq : BitVec 32) (reason : Byte) (payload : List Byte)
  | i3c (bytes : List Byte)
  | tdo (v : BitVec 32)
  | tdoCells (v : List Bool)
  deriving DecidableEq, Repr

/-- The whole machine. -/
structure State where
  pending : List Instr
  free    : Nat
  out     : List Out
  regs    : Sparse Dword              -- value registers by slot offset
  active  : Sparse Dword              -- active set of the SH registers (R582)
  job     : Sparse Dword              -- values in force of the next-job registers (R10)
  cores   : Sparse CoreSt             -- key 64 * tile + logical core
  units   : Sparse UnitSt
  phys    : Sparse PhysCore           -- key 68 * tile + physical core
  confirm : Sparse (Option Confirm)   -- by tile
  due     : List Due
  turns   : Sparse (Option (Nat × Dword)) -- by tile: the physical core that fell due for its test last, and when (R373)
  mram    : Mram
  rom     : Rom
  mem     : Mem
  program : Option Program
  step    : Option StepRun
  last    : Option LastStep
  goodStep : Option Word              -- last step completed with status 0x0000 or 0x0001 (R516)
  intact  : Bool                      -- no apply command has run since then (R516)
  sparesOut : Option Word             -- SEQ of the first 0x2084 since the program was loaded (R366, R369)
  unclassified : List Unclassified
  fabric  : Fabric
  eth     : Eth
  host    : HostIf
  power   : Power
  clock   : Clock
  mgmt    : Mgmt
  sec     : Sec
  pins    : Pins
  deriving DecidableEq, Repr

/-! ### Reset values -/

/-- An empty core memory, every word the codeword of zero (gesso fill). -/
def CoreMem.zero : CoreMem := { cells := [], fill := none }

/-- A core with no program. -/
def CoreSt.empty : CoreSt :=
  { queues := [], stalled := none, running := [], tokens := [], index := 0, vcount := 0, regions := [],
    sp := .zero, acc := .zero, oc := .zero, palettes := [], blocks := [], pepper := [], placeEpoch := 0,
    dropSeen := false, samples := [], remote := none, tracePos := 0, traceFull := false }

/-- An update unit at reset; its clip factor is 1.0. -/
def UnitSt.empty : UnitSt :=
  { held := [], running := none, next := 0, received := [], inService := true, norm := 0,
    clip := 0x3F800000#32, flags := 0, applied := [], pepper := [], tracePos := 0, traceFull := false }

/-- DESIGN CHOICE (log 4). The MRAM of a module as it leaves manufacture (R352, R384). -/
def Mram.fresh : Mram :=
  { pinned := [], ring := [], pinnedUsed := 0, ringNext := 0, ringWrapped := false, nextSeq := 0,
    pinnedFull := false, retirement := [], calibration := [], energy := 0, cause := 0 }

/-- DESIGN CHOICE (log 4). Boot flash and fuses at reset: grade W4T2-256, nothing fused off, empty slots. -/
def Rom.fresh : Rom :=
  { slotA := [], slotB := [], nextSlot := false, cert := [], grade240 := false, fused := [],
    keyHash := [0, 0, 0, 0], revoked := [false, false, false, false], minSvn := 0, serial := 0, secret := 0 }

/-- The stacks after a device reset with an empty retirement list: zero-filled, the map of R284. -/
def Mem.reset : Mem :=
  { stack := [], map := [], replicas := [], usable := 571392, channels := [], repairs := [], relocs := [],
    toRetire := [], mapOutDone := 0, exhausted := false, varnish := [], lines := [], fetching := [],
    llrOn := false }

/-- Ports down, tables empty. -/
def Fabric.reset : Fabric :=
  { ports := [], rankActive := [], rankShadow := [], colls := [], out := [], accepted := [], inbox := [],
    peers := [], stopped := false, abortTimer := none, early := [], dropEpoch := none, aborted := [], requests := 0, injectSeen := 0, noFabric := false }

/-- Both Ethernet ports down, no session. -/
def Eth.reset : Eth := { up := [], sessions := [], nacks := [] }

/-- Every ring disabled, every vector masked. -/
def HostIf.reset : HostIf :=
  { sqs := [], cqs := [], vectors := [], fetchNo := 0, pool := [], sanitizing := none, modules := 0,
    d3hot := false, restore := none }

/-- Core rails at 0.60 V, operating point 1 (R527, R555). -/
def Power.reset : Power :=
  { point := 1, miss := false, rails := [], target := 600, trim := 0, hold := 0, below := 0, limiting := false,
    watts := 0, vin := 0, tiles := [], stackTherms := [], energy := 0, energyFrac := 0, floorRatio := 0, ledger := [], ledgerNext := 0,
    ledgerWrapped := false, lastGood := none, chosen := false, later := none }

/-- The counter at 0 (R550). -/
def Clock.reset : Clock :=
  { time := 0, phase := 0, slew := 0, slewWait := 0, stepped := false, good := 0, aligned := false,
    onAlt := false, offset := 0 }

/-- Management at the 10.5 ms row of R554. -/
def Mgmt.reset : Mgmt :=
  { boot := .atReset, slotB := false, tried := false, halted := false, resetting := false, resets := [],
    queue := [], lost := 0, turns := 0, late := false, cancelled := false, refilling := false, heldWrites := [],
    busy := [0, 0, 0, 0], overloadRun := [0, 0, 0, 0], overload := false, factor := 1, drainStopped := false, secWait := false, telemSeq := 0,
    telemOff := false, settings := [], monitors := [], traceOn := false, fwVersion := 0, runSvn := 0,
    imageDigest := 0 }

/-- Measurements zero (R561), nothing busy. -/
def Sec.reset : Sec := { meas := [], idKey := 0, fwStatus := 0, fwBusy := false, attStatus := 0, nonce := 0 }

/-- DESIGN CHOICE (log 4). Pins at reset: input present and in range, ENABLE high, RESET_N high. -/
def Pins.reset : Pins :=
  { enable := true, resetN := true, powerGood := false, latch := false, tripped := false, input := true,
    inRange := true, charged := true, ptr := 0, page := [], cells := [], bypassBit := false }

/-- The machine right after a device reset, at the 10.5 ms row of R554 (log 4): registers, SRAM, rings, links and
program at reset (R555), the command queue empty. -/
def State.reset : State :=
  { pending := [], free := 0, out := [], regs := [], active := [], job := [], cores := [], units := [],
    phys := [], confirm := [], due := [], turns := [], mram := .fresh, rom := .fresh, mem := .reset, program := none,
    step := none, last := none, goodStep := none, intact := true, sparesOut := none, unclassified := [], fabric := .reset, eth := .reset, host := .reset, power := .reset,
    clock := .reset, mgmt := .reset, sec := .reset, pins := .reset }

end Sys2Proof.Machine
end

