-- ==== Sys2Proof/Machine/Reg.lean ====
section
/-! DEFINITION. The register map of BAR0 (16): offsets, reset values, the writable bits of each slot, and the three
sets a register can have: as the host sees it, in force after a turn (SH), in force after a sanitize (next job). -/

namespace Sys2Proof.Machine

/-! ### Offsets -/

/-- CMP_TRACE_CTL. -/
def Off.traceCtl : Nat := 0x200000
/-- CMP_TRACE_BASE. -/
def Off.traceBase : Nat := 0x200008
/-- CMP_TRACE_SIZE. -/
def Off.traceSize : Nat := 0x200010
/-- CMP_TOKEN_TIMEOUT. -/
def Off.tokenTimeout : Nat := 0x200018
/-- CMP_DET_STATUS. -/
def Off.detStatus : Nat := 0x200020
/-- CMP_MX_CTL. -/
def Off.mxCtl : Nat := 0x200028
/-- CMP_CHECK_CTL. -/
def Off.checkCtl : Nat := 0x200030
/-- CMP_IFT_CTL. -/
def Off.iftCtl : Nat := 0x200038
/-- CMP_INJECT_CTL. -/
def Off.injectCtl : Nat := 0x200040
/-- CMP_INJECT_UNIT. -/
def Off.injectUnit : Nat := 0x200048
/-- CMP_INJECT_WHEN. -/
def Off.injectWhen : Nat := 0x200050
/-- CMP_MX_STATUS of core key `k`. -/
def Off.mxStatus (k : Nat) : Nat := 0x201000 + 8 * k
/-- CMP_MX_COUNT. -/
def Off.mxCount : Nat := 0x201800
/-- CMP_VX_STATUS of core key `k`. -/
def Off.vxStatus (k : Nat) : Nat := 0x202000 + 8 * k
/-- CMP_VX_COUNT. -/
def Off.vxCount : Nat := 0x202800
/-- CMP_LX_COUNT. -/
def Off.lxCount : Nat := 0x203000
/-- CMP_CORE_MAP. -/
def Off.coreMap : Nat := 0x204000
/-- CMP_REL_COUNT. -/
def Off.relCount : Nat := 0x205000
/-- QZ_STATUS of core key `k` and path `p`. -/
def Off.qzStatus (k p : Nat) : Nat := 0x210000 + 16 * k + 8 * p
/-- QZ_COUNT. -/
def Off.qzCount : Nat := 0x211000
/-- UU_STATUS of unit `u`. -/
def Off.uuStatus (u : Nat) : Nat := 0x220000 + 8 * u
/-- UU_COUNT. -/
def Off.uuCount : Nat := 0x220100
/-- MEM_LLR_CTL. -/
def Off.llrCtl : Nat := 0x300000
/-- MEM_LLR_BASE. -/
def Off.llrBase : Nat := 0x300008
/-- MEM_LLR_SIZE. -/
def Off.llrSize : Nat := 0x300010
/-- MEM_VARNISH_CTL. -/
def Off.varnishCtl : Nat := 0x300018
/-- MEM_CE_LIMIT. -/
def Off.ceLimit : Nat := 0x300020
/-- MEM_CAPACITY. -/
def Off.capacity : Nat := 0x300028
/-- MEM_REPAIR_STATUS. -/
def Off.repairStatus : Nat := 0x300030
/-- MEM_MAP_INDEX. -/
def Off.mapIndex : Nat := 0x300038
/-- MEM_MAP_DATA. -/
def Off.mapData : Nat := 0x300040
/-- MEM_COUNT. -/
def Off.memCount : Nat := 0x300100
/-- MEM_CHAN. -/
def Off.memChan : Nat := 0x301000
/-- FAB_DEVICE_ID. -/
def Off.deviceId : Nat := 0x400000
/-- FAB_PLAN_CTL. -/
def Off.planCtl : Nat := 0x400008
/-- FAB_TIMERS. -/
def Off.timers : Nat := 0x400010
/-- FAB_TIME_CTL. -/
def Off.timeCtl : Nat := 0x400018
/-- FAB_TIME_STATUS. -/
def Off.timeStatus : Nat := 0x400020
/-- FAB_INJECT_CTL. -/
def Off.fabInject : Nat := 0x400028
/-- FAB_PLAN. -/
def Off.plan (p : Nat) : Nat := 0x400100 + 8 * p
/-- FAB_PORT_STATUS. -/
def Off.portStatus : Nat := 0x400400
/-- FAB_PORT_PEER. -/
def Off.portPeer : Nat := 0x400700
/-- FAB_ETH_CTL of port `e`; MAC, GW and the two IP slots follow. -/
def Off.ethCtl (e : Nat) : Nat := 0x400900 + 0x40 * e
/-- FAB_COUNT. -/
def Off.fabCount : Nat := 0x400C00
/-- PWR_MODE. -/
def Off.pwrMode : Nat := 0x500000
/-- PWR_CAP. -/
def Off.pwrCap : Nat := 0x500008
/-- PWR_DEADLINE. -/
def Off.pwrDeadline : Nat := 0x500010
/-- PWR_STEP_TOKENS. -/
def Off.stepTokens : Nat := 0x500018
/-- PWR_STATUS. -/
def Off.pwrStatus : Nat := 0x500020
/-- PWR_ENERGY. -/
def Off.energy : Nat := 0x500028
/-- PWR_FLOOR. -/
def Off.floor : Nat := 0x500030
/-- PWR_TIME. -/
def Off.time : Nat := 0x500038
/-- PWR_LEDGER_INDEX. -/
def Off.ledgerIndex : Nat := 0x500040
/-- PWR_LEDGER_DATA. -/
def Off.ledgerData : Nat := 0x500080
/-- PWR_TILE. -/
def Off.pwrTile : Nat := 0x500100
/-- PWR_STACK. -/
def Off.pwrStack : Nat := 0x500200
/-- MGT_BOOT_STATUS. -/
def Off.bootStatus : Nat := 0x600000
/-- MGT_RESET. -/
def Off.mgtReset : Nat := 0x600008
/-- MGT_TURN_CTL. -/
def Off.turnCtl : Nat := 0x600010
/-- MGT_TURN_TIME. -/
def Off.turnTime : Nat := 0x600018
/-- MGT_TURN_STATUS. -/
def Off.turnStatus : Nat := 0x600020
/-- MGT_LOAD. -/
def Off.load : Nat := 0x600028
/-- MGT_TELEM_CTL. -/
def Off.telemCtl : Nat := 0x600030
/-- MGT_CAL_CTL. -/
def Off.calCtl : Nat := 0x600038
/-- MGT_LOG_STATUS. -/
def Off.logStatus : Nat := 0x600100
/-- MGT_LOG_SEQ. -/
def Off.logSeq : Nat := 0x600108
/-- MGT_LOG_INDEX. -/
def Off.logIndex : Nat := 0x600110
/-- MGT_LOG_DATA. -/
def Off.logData : Nat := 0x600118
/-- MGT_OSDAN_VERSION. -/
def Off.osdan : Nat := 0x600180
/-- MGT_COUNT. -/
def Off.mgtCount : Nat := 0x600200
/-- MON_CFG of monitor `m`. -/
def Off.monCfg (m : Nat) : Nat := 0x680000 + 0x100 * m
/-- SEC_ID. -/
def Off.secId : Nat := 0x700000
/-- SEC_SVN. -/
def Off.secSvn : Nat := 0x700008
/-- SEC_FW_CTL. -/
def Off.fwCtl : Nat := 0x700010
/-- SEC_FW_ADDR. -/
def Off.fwAddr : Nat := 0x700018
/-- SEC_FW_LEN. -/
def Off.fwLen : Nat := 0x700020
/-- SEC_ATTEST_CTL. -/
def Off.attCtl : Nat := 0x700028
/-- SEC_ATTEST_ADDR. -/
def Off.attAddr : Nat := 0x700030
/-- SEC_IDKEY. -/
def Off.idKey : Nat := 0x700040
/-- SEC_ATTEST_NONCE. -/
def Off.nonce : Nat := 0x700060
/-- SEC_MEAS. -/
def Off.meas : Nat := 0x700100
/-- HIF_CAP. -/
def Off.cap : Nat := 0x100000
/-- HIF_EVENT_CTL. -/
def Off.eventCtl : Nat := 0x100040
/-- HIF_ERR_ADDR. -/
def Off.errAddr : Nat := 0x100048
/-- HIF_ERR_INFO. -/
def Off.errInfo : Nat := 0x100050
/-- HIF_COUNT. -/
def Off.hifCount : Nat := 0x100100
/-- HIF_SQ_BASE of ring `r`. -/
def Off.sqBase (r : Nat) : Nat := 0x101000 + 0x40 * r
/-- HIF_SQ_CFG. -/
def Off.sqCfg (r : Nat) : Nat := 0x101008 + 0x40 * r
/-- HIF_CQ_BASE. -/
def Off.cqBase (r : Nat) : Nat := 0x101010 + 0x40 * r
/-- HIF_CQ_CFG. -/
def Off.cqCfg (r : Nat) : Nat := 0x101018 + 0x40 * r
/-- HIF_RING_STATUS. -/
def Off.ringStatus (r : Nat) : Nat := 0x101020 + 0x40 * r
/-- MSI-X table entry `v`. -/
def Off.msix (v : Nat) : Nat := 0x108000 + 16 * v
/-- MSI-X pending-bit array. -/
def Off.pba : Nat := 0x109000

/-- Is `o` entry `n` of an array at `base` with `k` entries `step` apart. -/
def inArray (o base step k : Nat) : Bool := decide (base ≤ o) && decide (o < base + step * k) && (o - base) % step == 0

/-! ### Reset values and access -/

/-- The fifteen SH registers (16, "Active windows"). -/
def shOffsets : List Nat :=
  [Off.traceCtl, Off.traceBase, Off.traceSize, Off.tokenTimeout, Off.mxCtl, Off.checkCtl, Off.iftCtl] ++
  [Off.varnishCtl, Off.ceLimit, Off.timers, Off.pwrMode, Off.pwrCap, Off.pwrDeadline, Off.stepTokens, Off.calCtl]

/-- The registers that act at the next job (16). -/
def nextJobOffsets : List Nat :=
  [Off.llrCtl, Off.llrBase, Off.llrSize, Off.deviceId] ++
  [Off.ethCtl 0, Off.ethCtl 0 + 8, Off.ethCtl 0 + 16, Off.ethCtl 0 + 24, Off.ethCtl 0 + 32] ++
  [Off.ethCtl 1, Off.ethCtl 1 + 8, Off.ethCtl 1 + 16, Off.ethCtl 1 + 24, Off.ethCtl 1 + 32]

/-- Reset values of the value registers (16); every slot not named resets to 0. -/
def regReset (o : Nat) : Dword :=
  if o = Off.traceCtl then 0xE
  else if o = Off.tokenTimeout then 0x2710
  else if o = Off.mxCtl then 3
  else if o = Off.checkCtl then 0x10
  else if o = Off.iftCtl then 0x51801
  else if o = Off.varnishCtl then 0x271001
  else if o = Off.ceLimit then 0x101000
  else if o = Off.planCtl then 0x2800
  else if o = Off.timers then 0x00C8271001F46404
  else if o = Off.timeCtl then 0x10000
  else if o = Off.fabInject then 0x2800
  else if o = Off.pwrMode then 0x505
  else if o = Off.pwrCap then 0x708
  else if o = Off.pwrDeadline then 0x800000000
  else if o = Off.turnCtl then 2
  else if o = Off.telemCtl then 0x6400
  else if o = Off.calCtl then 0x40A
  else if inArray o (Off.sqCfg 0) 0x40 16 then 0x10100
  else if inArray o (Off.cqCfg 0) 0x40 16 then 0x100
  else 0

/-- The bits of a slot that a host write sets as a value (RW and SH fields outside reserved ones, R8, R11). Fields whose write is an action and that read 0 (GO, COMMIT, CLEAR, KEY) are left out. -/
def writeMask (o : Nat) : Nat :=
  if o = Off.traceCtl then 0x1F
  else if o = Off.traceBase then 0xFFFFFFFFFFFE0000
  else if o = Off.traceSize then 0xFFFF
  else if o = Off.tokenTimeout then 0xFFFFFFFF
  else if o = Off.mxCtl then 3
  else if o = Off.checkCtl then 0x1F
  else if o = Off.iftCtl then 0x1FFF01
  else if o = Off.injectCtl then 0x3F
  else if o = Off.injectUnit then 0x3FFFFFFF
  else if o = Off.injectWhen then 0xFFFFFFFFFFFFFFFF
  else if o = Off.llrCtl then 3
  else if o = Off.llrBase then 0xFFFFFF
  else if o = Off.llrSize then 0xFFFFFFFFFFFF
  else if o = Off.varnishCtl then 0xFFFFFF01
  else if o = Off.ceLimit then 0xFFFFFF
  else if o = Off.mapIndex then 0xFFFFFF
  else if o = Off.deviceId then 0xFFFF
  else if o = Off.planCtl then 0xFF00
  else if o = Off.timers then 0xFFFFFFFFFFFFFFFF
  else if o = Off.timeCtl then 0x3F3F01
  else if o = Off.fabInject then 0x7FFF
  else if inArray o (Off.plan 0) 8 48 then 0x80FFFFFFFFFFFFFF
  else if inArray o (Off.ethCtl 0) 0x40 2 then 0x0000FFFF0FFF0007
  else if inArray o (Off.ethCtl 0 + 8) 0x40 2 || inArray o (Off.ethCtl 0 + 16) 0x40 2 then 0xFFFFFFFFFFFF
  else if inArray o (Off.ethCtl 0 + 24) 0x40 2 || inArray o (Off.ethCtl 0 + 32) 0x40 2 then 0xFFFFFFFFFFFFFFFF
  else if o = Off.pwrMode then 0x7FF
  else if o = Off.pwrCap then 0x7FF
  else if o = Off.pwrDeadline then 0xFFFFFFFFFF
  else if o = Off.stepTokens then 0xFFFFFFFF
  else if o = Off.ledgerIndex then 0xFF
  else if o = Off.turnCtl then 7
  else if o = Off.turnTime then 0xFFFFFFFFFFFFFFFF
  else if o = Off.telemCtl then 0xFFFFFFFF01
  else if o = Off.calCtl then 0xF1F
  else if o = Off.logIndex then 0xFFFFF
  else if inArray o (Off.monCfg 0) 0x100 64 then 0xFFFFFFFF1FFFFFFF
  else if o = Off.fwAddr then 0xFFFFFFFFFFFFFFFF
  else if o = Off.fwLen then 0xFFFFFFFF
  else if o = Off.attAddr then 0xFFFFFFFFFFFFFFFF
  else if inArray o Off.nonce 8 4 then 0xFFFFFFFFFFFFFFFF
  else if o = Off.eventCtl then 0xF01
  else if inArray o (Off.sqBase 0) 0x40 16 then 0xFFFFFFFFFFFFF000
  else if inArray o (Off.cqBase 0) 0x40 16 then 0xFFFFFFFFFFFFF000
  else if inArray o (Off.sqCfg 0) 0x40 16 then 0x0001FFFF00FFFFF1
  else if inArray o (Off.cqCfg 0) 0x40 16 then 0x0001FFFFFFFFFFF9
  else 0

/-! ### Reading and setting -/

/-- The value of a register slot as the host set it (the shadow value of an SH register). -/
def State.reg (s : State) (o : Nat) : Dword := Sparse.look regReset s.regs o

/-- Sets a slot. -/
def State.setReg (s : State) (o : Nat) (v : Dword) : State := { s with regs := Sparse.store regReset s.regs o v }

/-- The value in force of an SH register (R582). -/
def State.act (s : State) (o : Nat) : Dword := Sparse.look regReset s.active o

/-- The value in force of a next-job register (R10). -/
def State.inJob (s : State) (o : Nat) : Dword := Sparse.look regReset s.job o

/-- Adds to counter `n` of an array, saturating at 2^64 − 1. -/
def State.count (s : State) (base n : Nat) (k : Nat := 1) : State :=
  s.setReg (base + 8 * n) (satAdd (s.reg (base + 8 * n)) k)

/-- Sets a field of a slot. -/
def State.setField (s : State) (o lo len v : Nat) : State := s.setReg o (putBits (s.reg o) lo len v)

/-- A turn's swap (R583): every SH register takes its shadow value. -/
def activeFrom (regs : Sparse Dword) (active : Sparse Dword) : Sparse Dword :=
  shOffsets.foldl (fun a o => Sparse.store regReset a o (Sparse.look regReset regs o)) active

/-- Applies every "at next job" value (R10, R492). -/
def jobFrom (regs : Sparse Dword) (job : Sparse Dword) : Sparse Dword :=
  nextJobOffsets.foldl (fun a o => Sparse.store regReset a o (Sparse.look regReset regs o)) job

end Sys2Proof.Machine
end

