-- ==== Sys2Proof/Machine/Ops.lean ====
section
/-! DEFINITION. The named operations over the state: cores, units, completion rings and MSI-X (12), the raising of a
fault record (10), and the memories with their SEC-DED words and the stripe map (08). -/

namespace Sys2Proof.Machine

/-! ### Small accessors -/

/-- The global counter in ticks (R550). -/
def State.now (s : State) : Dword := BitVec.ofNat 64 (s.clock.time.toNat / 256)

/-- A fresh free value (log 2). -/
def State.fresh (s : State) : Dword := Config.freeValue s.free

/-- Advances the free-value counter. -/
def State.skipFree (s : State) (n : Nat) : State := { s with free := s.free + n }

/-- Sends something out of the device. -/
def State.emit (s : State) (o : Out) : State := { s with out := s.out ++ [o] }

/-- Key of a logical core. -/
def coreKey (c : CoreRef) : Nat := 64 * c.tile.val + c.core.val

/-- A logical core's state. -/
def State.core (s : State) (c : CoreRef) : CoreSt := Sparse.look (fun _ => CoreSt.empty) s.cores (coreKey c)

/-- Replaces a logical core's state. -/
def State.setCore (s : State) (c : CoreRef) (v : CoreSt) : State :=
  { s with cores := Sparse.store (fun _ => CoreSt.empty) s.cores (coreKey c) v }

/-- Applies `f` to a logical core's state. -/
def State.modCore (s : State) (c : CoreRef) (f : CoreSt → CoreSt) : State := s.setCore c (f (s.core c))

/-- An update unit's state. -/
def State.uu (s : State) (t : Nat) : UnitSt := Sparse.look (fun _ => UnitSt.empty) s.units t

/-- Replaces an update unit's state. -/
def State.setUU (s : State) (t : Nat) (v : UnitSt) : State :=
  { s with units := Sparse.store (fun _ => UnitSt.empty) s.units t v }

/-- Applies `f` to the running step, if one runs. -/
def State.modStep (s : State) (f : StepRun → StepRun) : State := { s with step := s.step.map f }

/-- Is the running step a replay. -/
def State.replaying (s : State) : Bool := match s.step with | some r => r.replay | none => false

/-- The training-step number for records and messages, 0 when no step runs (R350). -/
def State.stepNo (s : State) : Word := match s.step with | some r => r.number | none => 0

/-- The loaded program's id, 0x000 with none (R39). -/
def State.progId (s : State) : BitVec 12 := match s.program with | some p => p.id | none => 0

/-! ### Physical cores -/

/-- Logical cores per tile of the grade (R20). -/
def activeCores (r : Rom) : Nat := if r.grade240 then 60 else 64

/-- The core map before any quarantine: the cores that are not fused off, in ascending order, carry the logical cores, and the last four are spares (R20, R363; log 12). -/
def physDefault (r : Rom) (key : Nat) : PhysCore :=
  let t := key / 68
  let p := key % 68
  let idle : PhysCore :=
    { state := .freeSpare, logical := none, segsLeft := 0, due := false, retried := false, waiting := false, spare := none, last := none }
  if (t, p) ∈ r.fused then { idle with state := .fusedOff }
  else
    let rank := p - (r.fused.filter (fun f => f.1 == t && decide (f.2 < p))).length
    if rank < activeCores r then { idle with state := .active, logical := some rank } else idle

/-- The entry of a physical core. -/
def State.ph (s : State) (t p : Nat) : PhysCore := Sparse.look (physDefault s.rom) s.phys (68 * t + p)

/-- Replaces the entry of a physical core. -/
def State.setPh (s : State) (t p : Nat) (v : PhysCore) : State :=
  { s with phys := Sparse.store (physDefault s.rom) s.phys (68 * t + p) v }

/-- The physical core that carries a logical core, if it is placed. -/
def State.physOf (s : State) (t k : Nat) : Option Nat :=
  (List.range 68).find? (fun p => (s.ph t p).logical == some k)

/-- The lowest-numbered free spare of a tile (R363). -/
def State.freeSpare (s : State) (t : Nat) : Option Nat :=
  (List.range 68).find? (fun p => (s.ph t p).state == .freeSpare)

/-! ### Unit ids (R6, R353) -/

/-- A unit id. -/
def unitId (cls t i : Nat) : UnitId := BitVec.ofNat 16 (4096 * cls + 1024 * t + i)

/-- Unit id of a stack channel (R353). -/
def unitChan (q : Nat) : UnitId := unitId 3 (q % 24 / 6) (16 * (q % 24 % 6) + q / 24)

/-- The physical core that carries a logical core or, while that core is not placed, the one that was fenced while it carried it (R371). -/
def State.carrier (s : State) (t k : Nat) : Option Nat :=
  match s.physOf t k with
  | some p => some p
  | none => (List.range 68).find? (fun p => (s.ph t p).last == some k)

/-- Unit id of the physical core that carries a logical core, or the device's own where no core ever carried it (log 141). -/
def State.coreUnit (s : State) (c : CoreRef) : UnitId :=
  match s.carrier c.tile.val c.core.val with
  | some p => unitId 1 c.tile.val p
  | none => 0

/-- Unit id of an update unit. -/
def unitUU (t : Nat) : UnitId := unitId 2 t 0

/-! ### Temperatures and rails -/

/-- A sensor at reset: 0, normal. -/
def thermReset (_ : Nat) : Therm := { temp := 0, max := 0, state := 0 }

/-- A tile's sensor. -/
def State.tileT (s : State) (t : Nat) : Therm := Sparse.look thermReset s.power.tiles t

/-- A stack's sensor. -/
def State.stackT (s : State) (k : Nat) : Therm := Sparse.look thermReset s.power.stackTherms k

/-- Highest tile temperature. -/
def State.hottestTile (s : State) : BitVec 16 := ((List.range 4).map (fun t => (s.tileT t).temp)).foldl tempMax (s.tileT 0).temp

/-- Highest stack temperature. -/
def State.hottestStack (s : State) : BitVec 16 := ((List.range 24).map (fun k => (s.stackT k).temp)).foldl tempMax (s.stackT 0).temp

/-- Is any of the stacks in a response of R541. -/
def State.stackHotNow (s : State) : Bool := (List.range 24).any (fun k => (s.stackT k).state != 0)

/-- Is any tile in a response of R541. -/
def State.tileHotNow (s : State) : Bool := (List.range 4).any (fun t => (s.tileT t).state != 0)

/-- A core rail in mV; 600 at reset (R527). -/
def State.rail (s : State) (t : Nat) : Nat := Sparse.look (fun _ => 600) s.power.rails t

/-- Junction temperature of a unit (R350): tile units and tile sensors have their tile's, channels their stack's; a hub-die unit has no sensor in the manual, so its value is free (log 2). -/
def State.unitTemp (s : State) (u : UnitId) : BitVec 16 :=
  let t := bits u 10 2
  let i := bits u 0 10
  match bits u 12 4 with
  | 1 => (s.tileT t).temp
  | 2 => (s.tileT t).temp
  | 3 => (s.stackT (6 * t + i / 16)).temp
  | 4 => (s.tileT t).temp
  | 12 => if 0x10 ≤ i ∧ i < 0x14 then (s.tileT (i - 0x10)).temp
          else if 0x20 ≤ i ∧ i < 0x38 then (s.stackT (i - 0x20)).temp else BitVec.ofNat 16 s.fresh.toNat
  | _ => BitVec.ofNat 16 s.fresh.toNat

/-- Supply voltage of a unit in mV (R350, R527); free where the manual does not name one rail for the unit (log 2). -/
def State.unitVolt (s : State) (u : UnitId) : BitVec 16 :=
  let t := bits u 10 2
  let i := bits u 0 10
  match bits u 12 4 with
  | 1 => BitVec.ofNat 16 (s.rail t)
  | 2 => BitVec.ofNat 16 (s.rail t)
  | 3 => 700
  | 8 => 750
  | 9 => 750
  | 10 => 750
  | 12 => if 1 ≤ i ∧ i ≤ 4 then BitVec.ofNat 16 (s.rail (i - 1))
          else if 5 ≤ i ∧ i ≤ 8 then 700
          else if i = 9 then 750 else BitVec.ofNat 16 (Config.freeValue (s.free + 1)).toNat
  | _ => BitVec.ofNat 16 (Config.freeValue (s.free + 1)).toNat

/-! ### MSI-X and completion rings (R485 to R491) -/

/-- An MSI-X vector at reset: masked (16). -/
def msixReset (_ : Nat) : MsixVec := { addr := 0, data := 0, masked := true, pending := false }

/-- A completion ring at reset. -/
def cqReset (_ : Nat) : Cq :=
  { enabled := false, head := 0, tail := 0, phase := false, used := 0, held := [], since := 0 }

/-- A submission ring at reset. -/
def sqReset (_ : Nat) : Sq :=
  { state := .disabled, version := 0, head := 0, tail := 0, stopped := false, fetched := [] }

/-- A vector. -/
def State.vec (s : State) (v : Nat) : MsixVec := Sparse.look msixReset s.host.vectors v

/-- Replaces a vector. -/
def State.setVec (s : State) (v : Nat) (x : MsixVec) : State :=
  { s with host := { s.host with vectors := Sparse.store msixReset s.host.vectors v x } }

/-- A completion ring. -/
def State.cq (s : State) (q : Nat) : Cq := Sparse.look cqReset s.host.cqs q

/-- Replaces a completion ring. -/
def State.setCq (s : State) (q : Nat) (x : Cq) : State :=
  { s with host := { s.host with cqs := Sparse.store cqReset s.host.cqs q x } }

/-- A submission ring. -/
def State.sq (s : State) (r : Nat) : Sq := Sparse.look sqReset s.host.sqs r

/-- Replaces a submission ring. -/
def State.setSq (s : State) (r : Nat) (x : Sq) : State :=
  { s with host := { s.host with sqs := Sparse.store sqReset s.host.sqs r x } }

/-- ENTRIES of a completion ring. -/
def State.cqEntries (s : State) (q : Nat) : Nat := bits (s.reg (Off.cqCfg q)) 32 17

/-- The link carries traffic (R446). -/
def State.linkUp (s : State) : Bool := decide (0 < s.host.modules)

/-- Sends a vector's message, or sets its pending bit while it is masked (R491). -/
def msixSend (v : Nat) (s : State) : State :=
  let x := s.vec v
  if x.masked then s.setVec v { x with pending := true } else s.emit (.msix v x.addr x.data)

/-- The 32 bytes of a completion entry (R487). -/
def entryBytes (e : Entry) (phase : Bool) : List Byte :=
  leBytes 2 e.status.toNat ++ [e.kind, BitVec.ofNat 8 (flag phase + 16 * e.sq.toNat)] ++ leBytes 2 e.sqHead.toNat ++
  [e.version, BitVec.ofNat 8 (flag e.applied)] ++ leBytes 4 e.cookie.toNat ++ leBytes 4 e.step.toNat ++
  leBytes 4 e.firstSeq.toNat ++ leBytes 4 e.detail.toNat ++ leBytes 2 e.valueVary.toNat ++ leBytes 2 e.timingVary.toNat ++
  leBytes 4 0

/-- Counts an entry toward the ring's message and sends it when coalescing directs (R491). -/
def coalesce (q : Nat) (irq : Bool) (s : State) : State :=
  let c := s.cq q
  let cfg := s.reg (Off.cqCfg q)
  let n := max 1 (bits cfg 8 8)
  if irq || decide (n ≤ c.since + 1) || bits cfg 16 16 == 0 then
    msixSend (bits cfg 3 5) (s.setCq q { c with since := 0 })
  else s.setCq q { c with since := c.since + 1 }

/-- Writes an entry to the ring's next slot, then interrupts (R485, R487). -/
def cqEmit (q : Nat) (e : Entry) (s : State) : State :=
  let c := s.cq q
  let n := s.cqEntries q
  let s := s.emit (.host (s.reg (Off.cqBase q) + BitVec.ofNat 64 (32 * c.tail)) (entryBytes e c.phase))
  let last := decide (c.tail + 1 = n)
  coalesce q e.irq (s.setCq q { c with tail := if last then 0 else c.tail + 1, phase := c.phase != last, used := c.used + 1 })

/-- Posts an entry to a completion ring: discarded when the ring is disabled (R457), held while it is full (R486) or the link is down (R446). -/
def cqPost (q : Nat) (e : Entry) (s : State) : State :=
  let c := s.cq q
  if !c.enabled then s.count Off.hifCount 3
  else if !c.held.isEmpty || decide (s.cqEntries q ≤ c.used) then
    (s.setCq q { c with held := c.held ++ [e] }).count Off.hifCount 2
  else if !s.linkUp then s.setCq q { c with held := c.held ++ [e] }
  else cqEmit q e s

/-- Posts an event entry, dropped when the ring is full (R490). -/
def eventPost (q : Nat) (e : Entry) (s : State) : State :=
  let c := s.cq q
  if !c.enabled then s.count Off.hifCount 3
  else if decide (s.cqEntries q ≤ c.used + c.held.length) then s.count Off.hifCount 5
  else if !s.linkUp then s.setCq q { c with held := c.held ++ [e] }
  else if !c.held.isEmpty then s.count Off.hifCount 5
  else cqEmit q e s

/-- Writes held entries, in order, while slots are free; `k` bounds how many. -/
def cqFlush (q : Nat) : Nat → State → State
  | 0, s => s
  | k + 1, s =>
    let c := s.cq q
    match c.held with
    | [] => s
    | e :: r =>
      if c.enabled && s.linkUp && decide (c.used < s.cqEntries q) then
        cqFlush q k (cqEmit q e (s.setCq q { c with held := r }))
      else s

/-! ### Fault records (10) -/

/-- The dispositions of R349. -/
inductive Disp where
  | silent | data | program | fabric | condition | corrected | degradation | spares | config | host | power | mgmt | info
  deriving DecidableEq, Repr

/-- The disposition of a code (R349). Codes outside the table are not raised; they read as information. -/
def disposition (c : Code) : Disp :=
  let n := c.toNat
  if n < 0x1000 then .info
  else if n ∈ [0x2040, 0x2041, 0x2080, 0x2081, 0x2089, 0x208D] then .silent
  else if n ∈ [0x1001, 0x1005, 0x1009, 0x100C, 0x208C] then .data
  else if (0x2010 ≤ n ∧ n ≤ 0x2017) ∨ n ∈ [0x2019, 0x2045, 0x1008, 0x100A, 0x100B, 0x2031, 0x2032, 0x2033] ∨
      n ∈ [0x2043, 0x2044, 0x2046, 0x2047, 0x2050, 0x2051, 0x2053, 0x2061, 0x2062] ∨
      n ∈ [0x2070, 0x2071, 0x2072, 0x2073, 0x2078, 0x2079] then .program
  else if n ∈ [0x3020, 0x3030, 0x3031, 0x3032, 0x3033] then .fabric
  else if n ∈ [0x2020, 0x2021, 0x2030, 0x2042, 0x2052, 0x2060, 0x2063, 0x2064] then .condition
  else if n = 0x2065 then .corrected
  else if n ∈ [0x1002, 0x1003, 0x1004, 0x1006, 0x1007, 0x2066, 0x2083, 0x2085, 0x3001, 0x3002, 0x3003] ∨
      n ∈ [0x3010, 0x3040, 0x4020] then .degradation
  else if n = 0x2084 then .spares
  else if n ∈ [0x100D, 0x2018, 0x3011, 0x7040] then .config
  else if n ∈ [0x3050, 0x4001, 0x4002, 0x4003, 0x4005, 0x4010, 0x4011, 0x4021, 0x4030, 0x4031, 0x4032, 0x4033] then .host
  else if 0x5000 ≤ n ∧ n < 0x6000 then .power
  else if 0x6000 ≤ n ∧ n < 0x8000 then .mgmt
  else .info

/-- Does the disposition make the step invalid (R349). -/
def Disp.invalid : Disp → Bool
  | .silent => true
  | .data => true
  | .program => true
  | .fabric => true
  | _ => false

/-- The step status that a disposition sets (R488), if it sets one. -/
def Disp.status : Disp → Option (BitVec 16)
  | .silent => some 2
  | .data => some 3
  | .fabric => some 4
  | .program => some 5
  | _ => none

/-- What is known of an event when its record is raised. -/
structure Cause where
  code : Code
  unit : UnitId
  tag : Tag := 0
  epoch : BitVec 16 := 0
  addr : Dword := 0
  loc : Option Phys := none
  syn : Word := 0
  detail : Word := 0
  cls : Option Nat := none
  injected : Bool := false
  history : Bool := false
  elimination : Bool := false
  deriving DecidableEq, Repr

/-- A physical stripe in the layout of LOC (R285): stack, channel within it, index. -/
def locBits (p : Phys) : Nat := 65536 * (p.q % 24) + 4096 * (p.q / 24) + p.i

/-- Bytes 0 to 61 of a record (R350). -/
def recordBody (r : Record) : List Byte :=
  leBytes 2 r.code.toNat ++ leBytes 2 r.unit.toNat ++ leBytes 2 r.flags.toNat ++ leBytes 2 r.placeEpoch.toNat ++
  leBytes 8 r.tag.toNat ++ leBytes 8 r.time.toNat ++ leBytes 8 r.addr.toNat ++ leBytes 4 r.location.toNat ++
  leBytes 4 r.syndrome.toNat ++ leBytes 2 r.temp.toNat ++ leBytes 2 r.volt.toNat ++ leBytes 4 r.step.toNat ++
  leBytes 4 r.seq.toNat ++ leBytes 4 r.detail.toNat ++ leBytes 6 0

/-- A record with the CRC of its bytes 0 to 61 (R350). -/
def sealRecord (r : Record) : Record := { r with crc := crc16 (recordBody r) }

/-- The 64 bytes of a record (R350). -/
def recordBytes (r : Record) : List Byte := recordBody r ++ leBytes 2 r.crc.toNat

/-- Does this error repeat one of the run that the running step replays, so that it is permanent (R359). A mismatch of dual execution goes by R361 instead. -/
def State.recurs (s : State) (code : Code) (unit : UnitId) : Bool :=
  s.replaying && s.unclassified.any (fun u => u.code == code && u.unit == unit && u.steps == 0 && !u.vary)

/-- CLASS of a new record (R351, R359; log 13): what the caller gives, else 0 or 2 for an error that R359 classifies, else 3. -/
def classOf (c : Cause) (s : State) : Nat :=
  match c.cls with
  | some k => k
  | none =>
    let d := disposition c.code
    if (d == .silent || d == .data) && bits c.unit 12 4 != 3 then
      (if c.code != 0x2080 && s.recurs c.code c.unit then 2 else 0)
    else 3

/-- FLAGS of a new record (R351). -/
def flagsOf (c : Cause) (s : State) : BitVec 16 :=
  let d := disposition c.code
  BitVec.ofNat 16 (flag (d == .silent) + 2 * flag (d == .data) + 4 * flag (d.invalid && s.step.isSome) + 8 * classOf c s +
    32 * flag c.history + 64 * flag c.elimination + 256 * flag c.injected + 512 * flag s.replaying)

/-- The record of an event (R350). -/
def recordOf (c : Cause) (s : State) : Record :=
  sealRecord
    { code := c.code, unit := c.unit, flags := flagsOf c s, placeEpoch := c.epoch, tag := c.tag.setWidth 64, time := s.now,
      addr := c.addr,
      location := match c.loc with | some p => BitVec.ofNat 32 (locBits p + 2 ^ 31) | none => 0,
      syndrome := c.syn, temp := s.unitTemp c.unit, volt := s.unitVolt c.unit, step := s.stepNo,
      seq := s.mram.nextSeq, detail := c.detail, crc := 0 }

/-- Puts a record into the queue of R571, where a record that finds 4,096 waiting is lost and counted. -/
def queueRecord (r : Record) (s : State) : State :=
  let s := if s.mgmt.drainStopped then s.count Off.mgtCount 1 else s
  if 4096 ≤ s.mgmt.queue.length then
    ({ s with mgmt := { s.mgmt with lost := s.mgmt.lost + 1 } }).count Off.mgtCount 2
  else { s with mgmt := { s.mgmt with queue := s.mgmt.queue ++ [r] } }

/-- The event entry of a record outside the information class (R490; log 14). -/
def eventEntry (r : Record) (s : State) : State :=
  let ctl := s.reg Off.eventCtl
  if bit ctl 0 && decide (0x1000 ≤ r.code.toNat) && s.mgmt.boot == .ready then
    eventPost (bits ctl 8 4)
      { status := 0, kind := 2, sq := 0, sqHead := 0, version := 0, applied := false, cookie := 0,
        step := BitVec.ofNat 32 (r.code.toNat + 65536 * r.unit.toNat), firstSeq := 0xFFFFFFFF, detail := 0,
        valueVary := 0, timingVary := 0, irq := false } s
  else s

/-- What a record does to the running step (0x3033 gives the host-abort status, R425): its count, its status cause, whether it is invalid, and the errors to classify (R349, R359, R487). -/
def stepMark (r : Record) (s : State) : State :=
  let d := disposition r.code
  s.modStep (fun st =>
    { st with
      records := st.records + 1
      invalid := st.invalid || d.invalid
      causes := (match d.status with | some v => st.causes ++ [(if r.code == 0x3033 then 7 else v, r.seq)] | none => st.causes)
      faults := if (d == .silent || d == .data) && bits r.unit 12 4 != 3 && bits r.flags 3 2 == 0
        then st.faults ++ [(r.code, r.unit, r.seq, bit r.flags 8)] else st.faults })

/-- Tile of a due task. -/
def Due.tile : Due → Nat
  | .quarantine t _ _ _ _ => t
  | .suspects t _ _ _ _ => t

/-- Is a due task the quarantine of a physical core. -/
def Due.removes (t p : Nat) : Due → Bool
  | .quarantine t' p' _ _ _ => t' == t && p' == p
  | .suspects .. => false

/-- Puts the quarantine of a classified core among the due tasks, once (R363); a unit that is no core has none. -/
def dueQuarantine (u : UnitId) (rcd : Word) (history elimination : Bool) (s : State) : State :=
  let t := bits u 10 2
  let p := bits u 0 10
  if bits u 12 4 ≠ 1 ∨ s.due.any (Due.removes t p) then s
  else { s with due := s.due ++ [.quarantine t p rcd history elimination] }

/-- Does a fault leave its unit in service: an injection without consequence caused it (R383). -/
def spared (injected : Bool) (s : State) : Bool := injected && !bit (s.reg Off.injectCtl) 5

/-- Is an open fault the one of this code and unit that a replay may repeat (R359). -/
def Unclassified.repeats (u : Unclassified) (code : Code) (unit : UnitId) : Bool :=
  u.code == code && u.unit == unit && u.steps == 0 && !u.vary

/-- Marks open faults permanent, each counted the first time (R359, R390). -/
def markPermanent (p : Unclassified → Bool) (s : State) : State :=
  let n := (s.unclassified.filter (fun u => p u && !u.permanent)).length
  { s with unclassified := s.unclassified.map (fun u => if p u then { u with permanent := true } else u) }.count Off.relCount 4 (min n 1)

/-- A permanent classification by replay (R359): counted, and its core due for quarantine unless an injection without consequence caused it (R363, R383). -/
def permanentByReplay (c : Cause) (r : Record) (s : State) : State :=
  if bits r.flags 3 2 == 2 && c.cls.isNone then
    let s := markPermanent (fun u => u.repeats r.code r.unit) s
    if spared c.injected s then s else dueQuarantine r.unit r.seq false false s
  else s

/-- HAZARD of CMP_DET_STATUS is set by the codes 0x2010 to 0x2017 and 0x2019 (02). -/
def hazardBit (c : Code) (s : State) : State :=
  if (0x2010 ≤ c.toNat ∧ c.toNat ≤ 0x2017) ∨ c.toNat = 0x2019 then s.setField Off.detStatus 2 1 1 else s

/-- Notes the first 0x2084: from then on the steps of the program end with the spares-exhausted status (R366, R369). -/
def noteSpares (r : Record) (s : State) : State :=
  if r.code == 0x2084 && s.sparesOut.isNone then { s with sparesOut := some r.seq } else s

/-- Raises a fault record: the one operation by which the device reports an event (R349 to R352, R490, R571). -/
def raise (c : Cause) (s : State) : State :=
  let r := recordOf c s
  let s := { s with mram := { s.mram with nextSeq := s.mram.nextSeq + 1 }, free := s.free + 2 }
  eventEntry r (queueRecord r (noteSpares r (hazardBit c.code (permanentByReplay c r (stepMark r s)))))

/-- Raises several records in order. -/
def raiseAll (cs : List Cause) (s : State) : State := cs.foldl (fun s c => raise c s) s

/-- Does something that belongs to no training step: records raised in it leave the running step as it was. -/
def aside (f : State → State) (s : State) : State :=
  let t := f { s with step := none }
  { t with step := s.step }

/-! ### Running commands and their records -/

/-- Number of an engine. -/
def engineNo : Engine → Nat
  | .matrix => 0
  | .vector => 1
  | .stream => 2

/-- The command an engine is running. -/
def CoreSt.run (k : CoreSt) (e : Engine) : Option Running := Sparse.look (fun _ => none) k.running (engineNo e)

/-- Replaces the command an engine is running. -/
def CoreSt.setRun (k : CoreSt) (e : Engine) (r : Option Running) : CoreSt :=
  { k with running := Sparse.store (fun _ => none) k.running (engineNo e) r }

/-- Applies `f` to the command an engine is running. -/
def modRun (c : CoreRef) (e : Engine) (f : Running → Running) (s : State) : State :=
  s.modCore c (fun k => k.setRun e ((k.run e).map f))

/-- Who causes an event: a running command of an engine or of an update unit, or something else, which has raised the codes `seen` already. -/
inductive Reporter where
  | device (tag : Tag) (seen : List Code)
  | engine (c : CoreRef) (e : Engine)
  | unit (t : Nat)
  deriving DecidableEq, Repr

/-- Raises a record with the tag of the command that causes it, at most one of each code per command (R322). -/
def report (r : Reporter) (x : Cause) (s : State) : State :=
  match r with
  | .device tag seen => if x.code ∈ seen then s else raise { x with tag := tag } s
  | .engine c e =>
    (match (s.core c).run e with
     | some q =>
       if x.code ∈ q.raised then s
       else modRun c e (fun q => { q with raised := q.raised ++ [x.code] }) (raise { x with tag := q.q.tag } s)
     | none => s)
  | .unit t =>
    match (s.uu t).running with
    | some q =>
      if x.code ∈ q.raised then s
      else
        let s := raise { x with tag := q.q.tag } s
        let u := s.uu t
        s.setUU t { u with running := u.running.map (fun q => { q with raised := q.raised ++ [x.code] }) }
    | none => s

/-! ### Tokens -/

/-- Adds to a token counter, saturating with 0x2016 (R34); zero changes nothing. -/
def postToken (c : CoreRef) (n amt : Nat) (tag : Tag) (s : State) : State :=
  let k := s.core c
  let v := (Sparse.look (fun _ => 0) k.tokens n).toNat + amt
  let s := s.setCore c { k with tokens := Sparse.store (fun _ => 0) k.tokens n (BitVec.ofNat 16 (min v 65535)) }
  if 65535 < v then raise { code := 0x2016, unit := s.coreUnit c, tag := tag, epoch := k.placeEpoch } s else s

/-- Sum of the amounts that a list names for counter `n` (R30). -/
def amountFor (l : List TokAmt) (n : Nat) : Nat :=
  total (l.map (fun t => if t.counter.val = n then t.amount.toNat else 0))

/-- Posts a list of amounts: those of one counter add up (R30). -/
def postTokens (c : CoreRef) (l : List TokAmt) (tag : Tag) (s : State) : State :=
  (l.map (fun t => t.counter.val)).eraseDups.foldl (fun s n => if amountFor l n = 0 then s else postToken c n (amountFor l n) tag s) s

/-- Are all waits satisfied (R30). -/
def waitsHold (l : List TokAmt) (k : CoreSt) : Bool :=
  l.all (fun t => decide (amountFor l t.counter.val ≤ (Sparse.look (fun _ => 0) k.tokens t.counter.val).toNat))

/-- Subtracts all waits in one step (R30). -/
def takeWaits (l : List TokAmt) (k : CoreSt) : CoreSt :=
  let take (m : Sparse (BitVec 16)) (n : Nat) : Sparse (BitVec 16) :=
    Sparse.store (fun _ => 0) m n (Sparse.look (fun _ => 0) m n - BitVec.ofNat 16 (amountFor l n))
  { k with tokens := (l.map (fun t => t.counter.val)).eraseDups.foldl take k.tokens }

/-! ### The stripe map and the stacks -/

/-- A map entry at a device reset (R284). -/
def mapReset (n : Nat) : MapEntry :=
  if n < 571392 then { state := .mapped, loc := ⟨n % 384, n / 384⟩, loc2 := none }
  else { state := .free, loc := ⟨(n - 571392) % 384, 1488 + (n - 571392) / 384⟩, loc2 := none }

/-- A replica entry at a device reset. -/
def replicaReset (k : Nat) : MapEntry := mapReset (k % 2 ^ 20)

/-- The master entry. -/
def State.entry (s : State) (n : Nat) : MapEntry := Sparse.look mapReset s.mem.map n

/-- The entry that a reader uses: tile `t`'s replica, or the master for the hub die (`t` = 4) (R285). -/
def State.entryFor (s : State) (t n : Nat) : MapEntry :=
  if t < 4 then Sparse.look replicaReset s.mem.replicas (2 ^ 20 * t + n) else s.entry n

/-- Sets the master entry. -/
def State.setEntry (s : State) (n : Nat) (e : MapEntry) : State :=
  { s with mem := { s.mem with map := Sparse.store mapReset s.mem.map n e } }

/-- Sets one tile's replica entry. -/
def State.setReplica (s : State) (t n : Nat) (e : MapEntry) : State :=
  { s with mem := { s.mem with replicas := Sparse.store replicaReset s.mem.replicas (2 ^ 20 * t + n) e } }

/-- Sets an entry in the master and in every replica. -/
def State.setAllEntry (s : State) (n : Nat) (e : MapEntry) : State :=
  ((((s.setEntry n e).setReplica 0 n e).setReplica 1 n e).setReplica 2 n e).setReplica 3 n e

/-- A channel at reset. -/
def chanReset (_ : Nat) : Channel :=
  { state := .inService, retired := 0, ceNow := 0, ceLast := 0, ue := 0, pending := false, fromMapOut := false, whole := false }

/-- A channel. -/
def State.chan (s : State) (q : Nat) : Channel := Sparse.look chanReset s.mem.channels q

/-- Replaces a channel. -/
def State.setChan (s : State) (q : Nat) (c : Channel) : State :=
  { s with mem := { s.mem with channels := Sparse.store chanReset s.mem.channels q c } }

/-- Bytes of a stripe. -/
def stripeBytes : Nat := 131072

/-- The canonical form of the stacks' codewords: physical words strictly rising, none equal to the codeword of zero, which an unlisted word holds. -/
def Memory.wf (m : Sparse Codeword) : Bool := Sparse.wf (fun _ => 0) m

/-- Number of a physical word: word `w` of a physical stripe. -/
def physWord (p : Phys) (w : Nat) : Nat := (p.q * 1536 + p.i) * 32768 + w

/-- The physical stripe of a physical word. -/
def physOfWord (k : Nat) : Phys := ⟨k / 32768 / 1536, k / 32768 % 1536⟩

/-- A stored codeword; unlisted words hold the codeword of zero. -/
def State.stored (s : State) (k : Nat) : Codeword := Sparse.look (fun _ => 0) s.mem.stack k

/-- Stores a codeword. -/
def State.storeCode (s : State) (k : Nat) (c : Codeword) : State :=
  { s with mem := { s.mem with stack := Sparse.store (fun _ => 0) s.mem.stack k c } }

/-- Does a map entry hold readable data. -/
def MapEntry.readable (e : MapEntry) : Bool := e.state == .mapped || e.state == .copying

/-- The word that a read of the stacks delivers at a byte address (R286, R288, R299). -/
def State.stackWord (s : State) (t a : Nat) : Word :=
  let e := s.entryFor t (a / stripeBytes)
  if e.readable then (eccRead (s.stored (physWord e.loc (a % stripeBytes / 4)))).word else 0

/-- The byte at a device address of the stacks. -/
def State.stackByte (s : State) (t a : Nat) : Byte := BitVec.ofNat 8 (bits (s.stackWord t a) (8 * (a % 4)) 8)

/-- `n` bytes of the stacks from address `a`. -/
def State.stackBytes (s : State) (t a n : Nat) : List Byte := (List.range n).map (fun i => s.stackByte t (a + i))

/-- Divides an access at stripe boundaries (R286). -/
def piecesFrom : Nat → Nat → Nat → List (Nat × Nat)
  | 0, _, _ => []
  | k + 1, a, n =>
    if n = 0 then []
    else
      let m := min n (stripeBytes - a % stripeBytes)
      (a, m) :: piecesFrom k (a + m) (n - m)

/-- The pieces of an access. -/
def pieces (a n : Nat) : List (Nat × Nat) := piecesFrom (n / stripeBytes + 2) a n

/-- Words that an access of `n` bytes at `a` touches. -/
def wordsTouched (a n : Nat) : Nat := if n = 0 then 0 else (a + n - 1) / 4 - a / 4 + 1

/-- What the reads of a command found: words corrected or not, by channel, and the first uncorrectable and LOST access. -/
structure ReadNote where
  corrected : List Nat          -- channel of each corrected word
  bad : List (Nat × Phys × Nat) -- device address, stripe and syndrome of each uncorrectable word
  lost : List (Nat × Phys × Nat) -- address, LOC and words of each LOST piece
  deriving DecidableEq, Repr

/-- Adds what the read of one piece finds. -/
def notePiece (t : Nat) (s : State) (r : ReadNote) (p : Nat × Nat) : ReadNote :=
  let e := s.entryFor t (p.1 / stripeBytes)
  if e.readable then
    let k0 := physWord e.loc (p.1 % stripeBytes / 4)
    let k1 := k0 + wordsTouched p.1 p.2
    (s.mem.stack.filter (fun x => decide (k0 ≤ x.1) && decide (x.1 < k1))).foldl (fun r x =>
      match eccRead x.2 with
      | .correct _ => r
      | .corrected _ => { r with corrected := r.corrected ++ [e.loc.q] }
      | .uncorrectable _ syn => { r with bad := r.bad ++ [(p.1 / 4 * 4 + 4 * (x.1 - k0), e.loc, syn)] }) r
  else { r with lost := r.lost ++ [(p.1, e.loc, wordsTouched p.1 p.2)] }

/-- What reads of several ranges find. -/
def noteReads (t : Nat) (ranges : List (Nat × Nat)) (s : State) : ReadNote :=
  (ranges.flatMap (fun r => pieces r.1 r.2)).foldl (notePiece t s) { corrected := [], bad := [], lost := [] }

/-- Counts a corrected event on a channel's foreground reads (R309). -/
def chanCE (q : Nat) (s : State) : State :=
  let c := s.chan q
  s.setChan q { c with ceNow := c.ceNow + 1 }

/-- Counts an uncorrectable word of a channel, and marks its stripe for retirement unless the word is stored poison (R308). -/
def chanUE (p : Phys) (syn : Nat) (s : State) : State :=
  let c := s.chan p.q
  let s := s.setChan p.q { c with ue := min 65535 (c.ue + 1) }
  if syn = 0x7F || p ∈ s.mem.toRetire then s else { s with mem := { s.mem with toRetire := s.mem.toRetire ++ [p] } }

/-- Counts path-parity failures on pieces of reads, by piece number: one failure is corrected by the second read and counted; two raise 0x1009 (R302). -/
def pathEffects (who : Reporter) (t : Nat) (ps : List (Nat × Nat)) (fails : List (Nat × Nat)) (s : State) : State :=
  fails.foldl (fun s f =>
    match ps[f.1]? with
    | none => s
    | some p =>
      let e := s.entryFor t (p.1 / stripeBytes)
      if f.2 = 0 || !e.readable then s
      else if f.2 = 1 then chanCE e.loc.q (s.count Off.memCount 0)
      else report who { code := 0x1009, unit := unitChan e.loc.q, addr := BitVec.ofNat 64 p.1, loc := some e.loc } s) s

/-- The effects of foreground reads of the stacks (R288, R300 to R302, R321): counts, channel counts, and at most one record of each code. -/
def readEffects (who : Reporter) (t : Nat) (ranges : List (Nat × Nat)) (fails : List (Nat × Nat)) (s : State) : State :=
  let s := pathEffects who t (ranges.flatMap (fun r => pieces r.1 r.2)) fails s
  let r := noteReads t ranges s
  let s := s.count Off.memCount 0 r.corrected.length
  let s := r.corrected.foldl (fun s q => chanCE q s) s
  let s := s.count Off.memCount 2 (r.bad.length + total (r.lost.map (fun x => x.2.2)))
  let s := r.bad.foldl (fun s x => chanUE x.2.1 x.2.2 s) s
  let s := match r.bad with
    | [] => s
    | x :: _ => report who { code := 0x1001, unit := unitChan x.2.1.q, addr := BitVec.ofNat 64 x.1, loc := some x.2.1, syn := BitVec.ofNat 32 x.2.2 } s
  match r.lost with
  | [] => s
  | x :: _ => report who { code := 0x100C, unit := unitChan x.2.1.q, addr := BitVec.ofNat 64 x.1, loc := some x.2.1 } s

/-- Stores one word at a device address: to LOC, to LOC and LOC2 while COPYING, nowhere when the stripe is not readable (R287, R288). -/
def storeWord (t a : Nat) (w : Word) (s : State) : State :=
  let e := s.entryFor t (a / stripeBytes)
  let k := a % stripeBytes / 4
  match e.state with
  | .mapped => s.storeCode (physWord e.loc k) (codeword w)
  | .copying =>
    let s := s.storeCode (physWord e.loc k) (codeword w)
    match e.loc2 with
    | some d => s.storeCode (physWord d k) (codeword w)
    | none => s
  | _ => s

/-- The words that bytes spell, four at a time. -/
def toWords : List Byte → List Word
  | a :: b :: c :: d :: r => BitVec.ofNat 32 (fromLe [a, b, c, d]) :: toWords r
  | [] => []
  | l => [BitVec.ofNat 32 (fromLe l)]

/-- Stores words at ascending addresses. -/
def storeWords (t : Nat) : Nat → List Word → State → State
  | _, [], s => s
  | a, w :: r, s => storeWords t (a + 4) r (storeWord t a w s)

/-- Words to the stacks: the data, and one 0x100C for a LOST stripe (R276, R287, R288). Background writes of the hub die are these alone. -/
def stackPut (who : Reporter) (t a : Nat) (data : List Byte) (s : State) : State :=
  let lost := (pieces a data.length).filter (fun p => !(s.entryFor t (p.1 / stripeBytes)).readable)
  let s1 := storeWords t a (toWords data) s
  match lost with
  | [] => s1
  | p :: _ =>
    let e := s.entryFor t (p.1 / stripeBytes)
    report who { code := 0x100C, unit := unitChan e.loc.q, addr := BitVec.ofNat 64 p.1, loc := some e.loc } s1

/-- A foreground write of whole words to the stacks: the pieces written to two copies are counted (R321). -/
def stackStore (who : Reporter) (t a : Nat) (data : List Byte) (s : State) : State :=
  let double := ((pieces a data.length).filter (fun p => (s.entryFor t (p.1 / stripeBytes)).state == .copying)).length
  stackPut who t a data (s.count Off.memCount 5 double)

/-- Does a write of `n` bytes reach a LOST stripe. -/
def touchesLost (t a n : Nat) (s : State) : Bool := (pieces a n).any (fun p => !(s.entryFor t (p.1 / stripeBytes)).readable)

/-- The reporter once a write to a LOST stripe has raised its record. -/
def Reporter.afterLost (w : Reporter) (lost : Bool) : Reporter :=
  match w with
  | .device tag seen => if lost then .device tag (seen ++ [0x100C]) else w
  | _ => w

/-! ### Address classes -/

/-- What a device address names (R273). -/
inductive Addr where
  | stack (a : Nat)
  | window (c : CoreRef) (m : Space) (off : Nat)
  | remote (dev : BitVec 16) (a : Nat)
  | reserved
  deriving DecidableEq, Repr

/-- Size of a core-local memory in bytes. -/
def spaceSize : Space → Nat
  | .sp => 0x400000
  | .acc => 0x80000
  | .oc => 0x20000

/-- Offset of a core-local memory in its core window (R273). -/
def spaceOff : Space → Nat
  | .sp => 0
  | .acc => 0x400000
  | .oc => 0x600000

/-- Reads a device address (R273). -/
def addrOf (a : Dword) : Addr :=
  let n := a.toNat
  if bit a 63 then .remote (BitVec.ofNat 16 (bits a 47 16)) (bits a 0 47)
  else if n < 571392 * stripeBytes then .stack n
  else if 0x10000000000 ≤ n ∧ n < 0x10400000000 then
    let i := (n - 0x10000000000) / 0x800000
    let o := (n - 0x10000000000) % 0x800000
    if h : i / 128 < 4 ∧ i % 128 < 64 then
      let c : CoreRef := ⟨⟨i / 128, h.1⟩, ⟨i % 128, h.2⟩⟩
      if o < 0x400000 then .window c .sp o
      else if o < 0x480000 then .window c .acc (o - 0x400000)
      else if 0x600000 ≤ o ∧ o < 0x620000 then .window c .oc (o - 0x600000)
      else .reserved
    else .reserved
  else .reserved

/-- The device address of a byte of a core-local memory (R273). -/
def windowAddr (c : CoreRef) (m : Space) (off : Nat) : Dword :=
  BitVec.ofNat 64 (0x10000000000 + (128 * c.tile.val + c.core.val) * 0x800000 + spaceOff m + off)

/-- First stripe, scratch stripes and cache stripes of the last-level region in force (R290, R291); zero sizes while it is disabled. -/
def State.llr (s : State) : Nat × Nat × Nat :=
  let sz := s.inJob Off.llrSize
  if s.mem.llrOn then (bits (s.inJob Off.llrBase) 0 24, bits sz 0 24, bits sz 24 24) else (bits (s.inJob Off.llrBase) 0 24, 0, 0)

/-- Does a range of bytes lie wholly within the scratch part (R292). -/
def State.inScratch (s : State) (a n : Nat) : Bool :=
  let l := s.llr
  decide (l.1 * stripeBytes ≤ a) && decide (a + n ≤ (l.1 + l.2.1) * stripeBytes)

/-- Does a range of bytes touch the cache part, if it has any (R297). -/
def State.touchesCache (s : State) (a n : Nat) : Bool :=
  let l := s.llr
  let lo := (l.1 + l.2.1) * stripeBytes
  decide (0 < n) && decide (0 < l.2.2) && decide (a < lo + l.2.2 * stripeBytes) && decide (lo < a + n)

/-- Does a range lie below the current capacity (R274). -/
def State.inCapacity (s : State) (a n : Nat) : Bool := decide (a + n ≤ s.mem.usable * stripeBytes)

/-- May a command address this range of stacked memory (R274, R297). -/
def State.stackLegal (s : State) (a n : Nat) : Bool := s.inCapacity a n && !s.touchesCache a n

/-! ### Core-local memories -/

/-- The memory of a space. -/
def CoreSt.mem (k : CoreSt) : Space → CoreMem
  | .sp => k.sp
  | .acc => k.acc
  | .oc => k.oc

/-- Replaces the memory of a space. -/
def CoreSt.setMem (k : CoreSt) (m : Space) (v : CoreMem) : CoreSt :=
  match m with
  | .sp => { k with sp := v }
  | .acc => { k with acc := v }
  | .oc => { k with oc := v }

/-- What an unlisted word of a core memory holds: zero after a gesso fill, a free word after a step boundary (R357, log 5). -/
def CoreMem.unlisted (m : CoreMem) (i : Nat) : Codeword :=
  match m.fill with
  | none => 0
  | some n => codeword (Config.freeCoreWord n i)

/-- The codeword at a word index. -/
def CoreMem.code (m : CoreMem) (i : Nat) : Codeword := Sparse.look m.unlisted m.cells i

/-- The word that a read delivers. -/
def CoreMem.word (m : CoreMem) (i : Nat) : Word := (eccRead (m.code i)).word

/-- Stores a codeword. -/
def CoreMem.put (m : CoreMem) (i : Nat) (c : Codeword) : CoreMem := { m with cells := Sparse.store m.unlisted m.cells i c }

/-- The byte at an offset. -/
def CoreMem.byte (m : CoreMem) (a : Nat) : Byte := BitVec.ofNat 8 (bits (m.word (a / 4)) (8 * (a % 4)) 8)

/-- `n` bytes from an offset. -/
def CoreMem.bytes (m : CoreMem) (a n : Nat) : List Byte := (List.range n).map (fun i => m.byte (a + i))

/-- Stores one byte. -/
def CoreMem.putByte (m : CoreMem) (a : Nat) (b : Byte) : CoreMem :=
  m.put (a / 4) (codeword (putBits (m.word (a / 4)) (8 * (a % 4)) 8 b.toNat))

/-- Stores bytes at ascending offsets. -/
def CoreMem.putBytes (m : CoreMem) : Nat → List Byte → CoreMem
  | _, [] => m
  | a, b :: r => CoreMem.putBytes (m.putByte a b) (a + 1) r

/-- The effects of reading a range of a core-local memory: corrected words are counted, an uncorrectable word raises 0x1001 against the core (R298 to R301; log 15). -/
def coreReadEffects (who : Reporter) (c : CoreRef) (m : Space) (a n : Nat) (s : State) : State :=
  let found := ((s.core c).mem m).cells.filter (fun x =>
    decide (a / 4 ≤ x.1) && decide (x.1 < a / 4 + wordsTouched a n) && syndrome x.2 != 0)
  let isBad (x : Nat × Codeword) : Bool := match eccRead x.2 with | .uncorrectable _ _ => true | _ => false
  let bad := found.filter isBad
  let s := s.count Off.memCount 0 (found.length - bad.length)
  let s := s.count Off.memCount 2 bad.length
  match bad with
  | [] => s
  | x :: _ => report who { code := 0x1001, unit := s.coreUnit c, epoch := (s.core c).placeEpoch,
                           addr := windowAddr c m (4 * x.1), syn := BitVec.ofNat 32 (syndrome x.2) } s

/-- Key of a region. -/
def regionKey (m : Space) (id : Nat) : Nat :=
  64 * (match m with | .sp => 0 | .acc => 1 | .oc => 2) + id

/-- A region of a core as one number over all cores. -/
def coreRegion (c : CoreRef) (m : Space) (id : Nat) : Nat := 256 * coreKey c + regionKey m id

/-- A declared region of a core. -/
def CoreSt.region (k : CoreSt) (m : Space) (id : Nat) : Option Region := Sparse.look (fun _ => none) k.regions (regionKey m id)

/-- Replaces a region. -/
def CoreSt.setRegion (k : CoreSt) (m : Space) (id : Nat) (r : Region) : CoreSt :=
  { k with regions := Sparse.store (fun _ => none) k.regions (regionKey m id) (some r) }

/-- Offset in its memory of the first byte of a region operand. -/
def CoreSt.opBase (k : CoreSt) (o : RegionOp) : Nat :=
  (match k.region o.space o.region with | some r => r.base | none => 0) + o.offset

/-- Size of the region that an operand names. -/
def CoreSt.regionSize (k : CoreSt) (o : RegionOp) : Nat :=
  match k.region o.space o.region with | some r => r.size | none => 0

/-- `n` bytes of a region operand from `off` on. -/
def CoreSt.opBytes (k : CoreSt) (o : RegionOp) (off n : Nat) : List Byte := (k.mem o.space).bytes (k.opBase o + off) n

/-- Stores bytes into a region operand from `off` on. -/
def CoreSt.opStore (k : CoreSt) (o : RegionOp) (off : Nat) (data : List Byte) : CoreSt :=
  k.setMem o.space ((k.mem o.space).putBytes (k.opBase o + off) data)

/-! ### Any device address -/

/-- A write or token post that the placement epoch keeps out: dropped and counted, and the first in each epoch of a logical core raises 0x0012 (R371). -/
def dropWrite (c : CoreRef) (s : State) : State :=
  let k := s.core c
  let s := s.count Off.relCount 7
  if k.dropSeen then s
  else raise { code := 0x0012, unit := s.coreUnit c, epoch := k.placeEpoch } (s.setCore c { k with dropSeen := true })

/-- Is a logical core placed on a physical core. -/
def State.placed (s : State) (c : CoreRef) : Bool := (s.physOf c.tile.val c.core.val).isSome

/-- Writes bytes through a core window; a core that is not placed drops them (R371). -/
def windowStore (c : CoreRef) (m : Space) (off : Nat) (data : List Byte) (s : State) : State :=
  if s.placed c then s.modCore c (fun k => k.setMem m ((k.mem m).putBytes off data)) else dropWrite c s

/-- One byte at a device address of this device, as a reader on tile `t` sees it. -/
def devByte (t : Nat) (a : Dword) (s : State) : Byte :=
  match addrOf a with
  | .stack n => s.stackByte t n
  | .window c m off => ((s.core c).mem m).byte off
  | _ => 0

/-- `n` bytes from a device address. -/
def devBytes (t : Nat) (a : Dword) (n : Nat) (s : State) : List Byte :=
  (List.range n).map (fun i => devByte t (a + BitVec.ofNat 64 i) s)

/-- Writes bytes at a device address: to the stacks or through a core window. -/
def devStore (who : Reporter) (t : Nat) (a : Dword) (data : List Byte) (s : State) : State :=
  match addrOf a with
  | .stack n => stackStore who t n data s
  | .window c m off => windowStore c m off data s
  | _ => s

/-- Writes several runs of bytes, as offset and bytes from a device address, in order. -/
def devStoreAll (who : Reporter) (t : Nat) (a : Dword) (ws : List (Nat × List Byte)) (s : State) : State :=
  (ws.foldl (fun x w =>
    let b := a + BitVec.ofNat 64 w.1
    (devStore x.2 t b w.2 x.1, x.2.afterLost (match addrOf b with | .stack n => touchesLost t n w.2.length x.1 | _ => false))) (s, who)).1

/-- The codes with which an access of `n` bytes at a device address refuses its command (R274 to R276, R297). A remote address is read only where `remoteOk` (R275); elsewhere it names no memory of the device, 0x1008 (log 20). -/
def addrCodes (remoteOk write : Bool) (a : Dword) (n : Nat) (s : State) : List Code :=
  match addrOf a with
  | .stack k =>
    (if s.stackLegal k n then [] else [0x1008]) ++ (if write && (k % 4 != 0 || n % 4 != 0) then [0x100A] else [])
  | .window _ m off => if off + n ≤ spaceSize m then [] else [0x1008]
  | .remote _ k =>
    if write then [0x100B] else if remoteOk && decide (k + n ≤ 571392 * stripeBytes) then [] else [0x1008]
  | .reserved => [0x1008]

end Sys2Proof.Machine
end

