-- ==== Sys2Proof/Machine/Stored.lean ====
section
/-! DEFINITION. How tensors lie in memory: element codes in the stored layouts (R323 to R326), and the copy descriptor
with the bytes that it reads and writes (R327, R330, R334, R338). -/

namespace Sys2Proof.Machine

/-! ### Element codes in the stored layouts -/

/-- Bytes of `n` elements of `w` bits. -/
def packedBytes (w n : Nat) : Nat := (w * n + 7) / 8

/-- The code of `w` bits at element `i` of packed bytes that begin with element 0 (R76, R324). -/
def packedCode (w : Nat) (bs : List Byte) (i : Nat) : Nat :=
  if w = 4 then bits (nth bs (i / 2) 0) (4 * (i % 2)) 4 else byteField bs (i * (w / 8)) (w / 8)

/-- Packs codes of `w` bits (R76). -/
def packCodes (w : Nat) (l : List Nat) : List Byte :=
  if w = 4 then (List.range ((l.length + 1) / 2)).map (fun i => BitVec.ofNat 8 (nth l (2 * i) 0 % 16 + 16 * (nth l (2 * i + 1) 0 % 16)))
  else l.flatMap (fun v => leBytes (w / 8) v)

/-- Position of element (r, c) in the sequence of a blocked matrix of R rows and C columns (R325). -/
def blockedIndex (rows cols r c : Nat) : Nat :=
  let p := r / 256
  let q := c / 256
  let rp := min 256 (rows - 256 * p)
  let cq := min 256 (cols - 256 * q)
  256 * p * cols + 256 * q * rp + (r % 256) * cq + c % 256

/-- Byte and bit position of each bit of FP4 element `e` of a bit-plane sequence of `n` elements (R326). -/
def planeBit (n e j : Nat) : Nat × Nat :=
  let u := e / 1024
  let i := e % 1024
  let left := n - 1024 * u
  let plane := if 1024 ≤ left then 128 else (left + 31) / 32 * 4
  (512 * u + j * plane + i / 8, i % 8)

/-- Bytes of a bit-plane tensor of `n` elements (R326). -/
def planeBytes (n : Nat) : Nat := n / 1024 * 512 + (n % 1024 + 31) / 32 * 16

/-- Bytes that one matrix of a stored tensor reaches from its base (R323 to R326). -/
def layoutBytes (layout : Nat) (w rows cols stride : Nat) : Nat :=
  if rows = 0 ∨ cols = 0 then 0
  else match layout with
    | 0 => stride * (rows - 1) + packedBytes w cols
    | 1 => packedBytes w (rows * cols)
    | _ => planeBytes (rows * cols)

/-- The code of element (r, c) of a stored matrix, from a byte reader relative to its base. -/
def layoutCode (layout w rows cols stride : Nat) (rd : Nat → Byte) (r c : Nat) : Nat :=
  let seqCode (e : Nat) : Nat :=
    if w = 4 then bits (rd (e / 2)) (4 * (e % 2)) 4
    else fromLe ((List.range (w / 8)).map (fun k => rd (e * (w / 8) + k)))
  let planeCode (e : Nat) : Nat :=
    total ((List.range 4).map (fun j => let p := planeBit (rows * cols) e j; 2 ^ j * flag (bit (rd p.1) p.2)))
  match layout with
  | 0 =>
    if w = 4 then bits (rd (r * stride + c / 2)) (4 * (c % 2)) 4
    else fromLe ((List.range (w / 8)).map (fun k => rd (r * stride + c * (w / 8) + k)))
  | 1 => seqCode (blockedIndex rows cols r c)
  | 2 => planeCode (r * cols + c)
  | _ => planeCode (blockedIndex rows cols r c)

/-! ### Stored bytes -/

/-- Positions (row, column) of a blocked matrix in stored order (R325). -/
def blockedOrder (rows cols : Nat) : List (Nat × Nat) :=
  (List.range ((rows + 255) / 256)).flatMap (fun p => (List.range ((cols + 255) / 256)).flatMap (fun q =>
    (List.range (min 256 (rows - 256 * p))).flatMap (fun r => (List.range (min 256 (cols - 256 * q))).map (fun k =>
      (256 * p + r, 256 * q + k)))))

/-- Positions of a matrix in row order. -/
def rowOrder (rows cols : Nat) : List (Nat × Nat) :=
  (List.range rows).flatMap (fun r => (List.range cols).map (fun k => (r, k)))

/-- One plane of a unit of FP4 codes: `n` bytes of bit `j` (R326). -/
def planeOf (e : List Nat) (j n : Nat) : List Byte :=
  (List.range n).map (fun k => BitVec.ofNat 8 (total ((List.range 8).map (fun i => 2 ^ i * flag ((nth e (8 * k + i) 0).testBit j)))))

/-- A sequence of FP4 codes in bit planes (R326). -/
def planesOf (seq : List Nat) : List Byte :=
  (List.range ((seq.length + 1023) / 1024)).flatMap (fun u =>
    let e := (seq.drop (1024 * u)).take 1024
    let n := (e.length + 31) / 32 * 4
    (List.range 4).flatMap (fun j => planeOf e j n))

/-- The stored bytes of a matrix that is one run: blocked, or bit planes in either order (R325, R326). -/
def runBytes (layout w rows cols : Nat) (code : Nat → Nat → Nat) : List Byte :=
  let seq := (if layout = 2 then rowOrder rows cols else blockedOrder rows cols).map (fun p => code p.1 p.2)
  if layout = 1 then packCodes w seq else planesOf seq

/-- Bytes rounded up to a multiple of 4 (R334). -/
def wordUp (n : Nat) : Nat := (n + 3) / 4 * 4

/-- Bytes extended with zeros to whole words (R334). -/
def padWords (l : List Byte) : List Byte := l ++ List.replicate (wordUp l.length - l.length) 0

/-- Runs of bytes, as offset and length, of a stored matrix: its rows where they lie apart in row order, else one run. -/
def matrixRuns (layout w rows cols stride : Nat) : List (Nat × Nat) :=
  if rows = 0 ∨ cols = 0 then []
  else if layout = 0 ∧ stride ≠ packedBytes w cols then (List.range rows).map (fun r => (r * stride, packedBytes w cols))
  else [(0, layoutBytes layout w rows cols stride)]

/-- The runs with the bytes that a matrix of codes puts there. -/
def matrixWrites (layout w rows cols stride : Nat) (code : Nat → Nat → Nat) : List (Nat × List Byte) :=
  let row (r : Nat) : List Byte := packCodes w ((List.range cols).map (code r))
  if rows = 0 ∨ cols = 0 then []
  else if layout = 0 then
    (if stride = packedBytes w cols then [(0, (List.range rows).flatMap row)] else (List.range rows).map (fun r => (r * stride, row r)))
  else [(0, runBytes layout w rows cols code)]

/-- First byte past the last of some runs. -/
def spanEnd (l : List (Nat × Nat)) : Nat := l.foldl (fun m x => max m (x.1 + x.2)) 0

/-- First byte of the first of some runs. -/
def spanStart (l : List (Nat × Nat)) : Nat := match l with | x :: _ => x.1 | [] => 0

/-- Runs moved by an offset. -/
def shiftSpans (k : Nat) (l : List (Nat × Nat)) : List (Nat × Nat) := l.map (fun x => (k + x.1, x.2))

/-! ### The descriptor (R327) -/

/-- A copy descriptor. -/
structure CopyDesc where
  version   : Nat
  srcLayout : Nat
  dstLayout : Nat
  format    : Nat
  dims      : Nat
  pad       : Bool
  bcast     : Bool
  reserved  : Nat
  src       : Dword
  dst       : Dword
  counts    : List Nat
  ss        : List Nat
  ds        : List Nat
  pads      : List Nat
  deriving DecidableEq, Repr

/-- Reads the 64 bytes of a descriptor (R327). -/
def copyDesc (d : BitVec 512) : CopyDesc :=
  { version := bits d 0 8, srcLayout := bits d 8 4, dstLayout := bits d 12 4, format := bits d 16 4, dims := bits d 20 2,
    pad := bit d 22, bcast := bit d 23, reserved := bits d 24 40,
    src := BitVec.ofNat 64 (bits d 64 64), dst := BitVec.ofNat 64 (bits d 128 64),
    counts := (List.range 4).map (fun i => bits d (192 + 16 * i) 16),
    ss := (List.range 3).map (fun i => bits d (256 + 32 * i) 32),
    ds := (List.range 3).map (fun i => bits d (352 + 32 * i) 32),
    pads := (List.range 4).map (fun i => bits d (448 + 16 * i) 16) }

/-- A reserved field that is not zero (R12, R328). -/
def CopyDesc.reservedSet (d : CopyDesc) : Bool :=
  d.reserved != 0 || (List.range 4).any (fun i => decide (d.dims < i) && nth d.counts i 0 != 0) ||
  (List.range 3).any (fun i => decide (d.dims < i + 1) && (nth d.ss i 0 != 0 || nth d.ds i 0 != 0)) ||
  (d.srcLayout != 0 && nth d.ss 0 0 != 0) || (d.dstLayout != 0 && nth d.ds 0 0 != 0)

/-- Count of dimension `i`; a dimension beyond DIMS has one element. -/
def CopyDesc.cnt (d : CopyDesc) (i : Nat) : Nat := if i ≤ d.dims then nth d.counts i 0 else 1

/-- Source stride in bytes of dimension `i`, from 1 to 3. -/
def CopyDesc.sStep (d : CopyDesc) (i : Nat) : Nat := if i ≤ d.dims then 4 * nth d.ss (i - 1) 0 else 0

/-- Destination stride in bytes of dimension `i`, from 1 to 3. -/
def CopyDesc.dStep (d : CopyDesc) (i : Nat) : Nat := if i ≤ d.dims then 4 * nth d.ds (i - 1) 0 else 0

/-- Bits of an element (R323); a scale code takes 8. -/
def CopyDesc.width (d : CopyDesc) : Nat := nth [4, 8, 8, 16, 32, 8] d.format 8

/-- Is the copy a no-operation (R53, R330). -/
def CopyDesc.zero (d : CopyDesc) : Bool := (List.range 4).any (fun i => d.cnt i == 0)

/-- Padding field `i` when PAD_STORE is set. -/
def CopyDesc.padOf (d : CopyDesc) (i : Nat) : Nat := if d.pad then nth d.pads i 0 else 0

/-- Elements of a destination row (R338). -/
def CopyDesc.dstCols (d : CopyDesc) : Nat := d.padOf 0 + d.cnt 0 + d.padOf 1

/-- Rows of a destination matrix (R338). -/
def CopyDesc.dstRows (d : CopyDesc) : Nat := d.padOf 2 + d.cnt 1 + d.padOf 3

/-- The matrices, in ascending order of dimension 3, then 2 (R330). -/
def CopyDesc.mats (d : CopyDesc) : List (Nat × Nat) :=
  (List.range (d.cnt 3)).flatMap (fun a => (List.range (d.cnt 2)).map (fun b => (a, b)))

/-- Offset and length of each run of source bytes: a row in row order, a whole matrix in the other layouts. -/
def CopyDesc.srcSpans (d : CopyDesc) : List (Nat × Nat) :=
  d.mats.flatMap (fun m =>
    let o := m.1 * d.sStep 3 + m.2 * d.sStep 2
    if d.srcLayout = 0 then
      let n := packedBytes d.width (if d.bcast then 1 else d.cnt 0)
      (List.range (d.cnt 1)).map (fun r => (o + r * d.sStep 1, n))
    else [(o, layoutBytes d.srcLayout d.width (d.cnt 1) (d.cnt 0) 0)])

/-- Offset and length of each destination footprint (R334): a row in row order, a whole matrix in the other layouts, which store one run. -/
def CopyDesc.footprints (d : CopyDesc) : List (Nat × Nat) :=
  d.mats.flatMap (fun m =>
    let o := m.1 * d.dStep 3 + m.2 * d.dStep 2
    if d.dstLayout = 0 then
      let n := wordUp (packedBytes d.width d.dstCols)
      (List.range d.dstRows).map (fun r => (o + r * d.dStep 1, n))
    else [(o, wordUp (layoutBytes d.dstLayout d.width d.dstRows d.dstCols 0))])

/-- Do two spans of a list overlap. -/
def overlapping : List (Nat × Nat) → Bool
  | [] => false
  | x :: r => r.any (fun y => decide (x.1 < y.1 + y.2) && decide (y.1 < x.1 + x.2)) || overlapping r

/-- Code of a source element, from a reader of the bytes at SRC onward. -/
def CopyDesc.srcCode (d : CopyDesc) (rd : Nat → Byte) (m : Nat × Nat) (r k : Nat) : Nat :=
  let o := m.1 * d.sStep 3 + m.2 * d.sStep 2
  layoutCode d.srcLayout d.width (d.cnt 1) (d.cnt 0) (d.sStep 1) (fun b => rd (o + b)) r (if d.bcast then 0 else k)

/-- Code of a destination element: a source element, or the zero code of the padding (R338). -/
def CopyDesc.dstCode (d : CopyDesc) (rd : Nat → Byte) (m : Nat × Nat) (r k : Nat) : Nat :=
  if d.padOf 2 ≤ r ∧ r < d.padOf 2 + d.cnt 1 ∧ d.padOf 0 ≤ k ∧ k < d.padOf 0 + d.cnt 0
  then d.srcCode rd m (r - d.padOf 2) (k - d.padOf 0) else 0

/-- What the copy writes, in order: offset from DST and bytes, whole footprints (R329, R330, R334). -/
def CopyDesc.writes (d : CopyDesc) (rd : Nat → Byte) : List (Nat × List Byte) :=
  d.mats.flatMap (fun m =>
    let o := m.1 * d.dStep 3 + m.2 * d.dStep 2
    if d.dstLayout = 0 then
      (List.range d.dstRows).map (fun r =>
        (o + r * d.dStep 1, padWords (packCodes d.width ((List.range d.dstCols).map (fun k => d.dstCode rd m r k)))))
    else [(o, padWords (runBytes d.dstLayout d.width d.dstRows d.dstCols (fun r k => d.dstCode rd m r k)))])

end Sys2Proof.Machine
end

