-- ==== Sys2Proof/Machine/Operands.lean ====
section
/-! DEFINITION. Operand forms of the engine commands: which bytes an operand reaches, how its elements and scales are
read in every stored layout (R323 to R326), where results go, which accesses are legal, and the Pepper draws. -/

namespace Sys2Proof.Machine

/-! ### Running commands -/

/-- An engine's queue. -/
def CoreSt.queue (k : CoreSt) (e : Engine) : List QCmd := Sparse.look (fun _ => []) k.queues (engineNo e)

/-- Replaces an engine's queue. -/
def CoreSt.setQueue (k : CoreSt) (e : Engine) (q : List QCmd) : CoreSt :=
  { k with queues := Sparse.store (fun _ => []) k.queues (engineNo e) q }

/-- Logical core k xor 1 of the same tile (R378). -/
def neighbour (c : CoreRef) : CoreRef := ⟨c.tile, ⟨c.core.val ^^^ 1, Nat.xor_lt_two_pow (n := 6) c.core.isLt (by decide)⟩⟩

/-- Marks the running command's operation as carried out. -/
def finish (c : CoreRef) (e : Engine) (s : State) : State := modRun c e (fun r => { r with done := true }) s

/-- Raises a record against a core for a command of it, at most one of each code per command (R91, R134, R191, R228, R322). -/
def raiseFor (c : CoreRef) (e : Engine) (x : Cause) (s : State) : State :=
  report (.engine c e) { x with unit := s.coreUnit c, epoch := (s.core c).placeEpoch } s

/-- Are the writes of a running command to a region of a core suppressed (R48, R49). -/
def suppressed (r : Running) (c : CoreRef) (o : RegionOp) : Bool := r.suppressed.contains (coreRegion c o.space o.region)

/-- Writes bytes to a region operand of the running command, unless that region's writes are suppressed. -/
def storeOp (c : CoreRef) (r : Running) (o : RegionOp) (off : Nat) (data : List Byte) (s : State) : State :=
  if suppressed r c o then s else s.modCore c (fun k => k.opStore o off data)

/-- Bytes of an operand in a region or in the stacks. -/
def locBytes (c : CoreRef) (l : Loc) (off n : Nat) (s : State) : List Byte :=
  match l with
  | .region o => (s.core c).opBytes o off n
  | .stack a => devBytes c.tile.val (a + BitVec.ofNat 64 off) n s

/-- Writes bytes of an operand in a region or in the stacks. -/
def storeLoc (c : CoreRef) (e : Engine) (r : Running) (l : Loc) (off : Nat) (data : List Byte) (s : State) : State :=
  match l with
  | .region o => storeOp c r o off data s
  | .stack a => devStore (.engine c e) c.tile.val (a + BitVec.ofNat 64 off) data s

/-- Carries out a list of writes, as offset and bytes, of an operand. -/
def storeRuns (c : CoreRef) (e : Engine) (r : Running) (l : Loc) (ws : List (Nat × List Byte)) (s : State) : State :=
  ws.foldl (fun s w => storeLoc c e r l w.1 w.2 s) s

/-! ### Narrow tensors as the engines read them -/

/-- A narrow operand: its codes by piece, row and column, its scale codes by row and group, its row scales. -/
structure Narrow where
  fmt    : Fmt
  pieces : Nat
  rows   : Nat
  cols   : Nat
  group  : Nat
  scaleFmt : ScaleFmt
  rot    : Nat
  code   : Nat → Nat → Nat → Nat
  scale  : Nat → Nat → Byte
  rowScale : Nat → Option Word
  hasRowScale : Bool
  addrScale : Nat → Nat → Dword
  addrRow : Nat → Dword

/-- Groups of a row (R84). -/
def groupsOf (cols group : Nat) : Nat := if group = 0 then 0 else (cols + group - 1) / group

/-- The device address of a byte of an operand. -/
def locAddr (c : CoreRef) (l : Loc) (off : Nat) (s : State) : Dword :=
  match l with
  | .region o => windowAddr c o.space ((s.core c).opBase o + off)
  | .stack a => a + BitVec.ofNat 64 off

/-- One byte of an operand. -/
def locByte (c : CoreRef) (l : Loc) (off : Nat) (s : State) : Byte :=
  match l with
  | .region o => ((s.core c).mem o.space).byte ((s.core c).opBase o + off)
  | .stack a => devByte c.tile.val (a + BitVec.ofNat 64 off) s

/-- A little-endian FP32 value of an operand. -/
def locWord32 (c : CoreRef) (l : Loc) (off : Nat) (s : State) : Word := BitVec.ofNat 32 (fromLe (locBytes c l off 4 s))

/-- A stored narrow tensor as a narrow operand. `rows` and `cols` are those of the product, rows along its reduction axis, and `flip` says that the store holds it the other way round (R172). What lies outside the stored extent reads as the zero code, and its scales as the zero-group code (R336). Its scale codes are a tensor of their own, one code per row of the product and group (R323; log 17). -/
def storedNarrow (c : CoreRef) (t : NarrowTensor) (flip : Bool) (s : State) : Narrow :=
  let w := fmtWidth t.fmt
  let rows := if flip then t.cols else t.rows
  let cols := if flip then t.rows else t.cols
  let storedR := if flip then t.storedCols else t.storedRows
  let storedC := if flip then t.storedRows else t.storedCols
  let g := groupsOf storedC t.group
  let part := match t.half with | some _ => (storedC + 1) / 2 | none => storedC
  let scaleAt (i n b : Nat) : Nat := layoutCode t.scaleLayout.val 8 storedR g t.scaleStride (fun k => locByte c t.scales (b + k) s) i n
  { fmt := t.fmt, pieces := t.pieces, rows := rows, cols := cols, group := t.group, scaleFmt := t.scaleFmt, rot := t.rot
    code := fun p i j =>
      if i < storedR ∧ j < storedC then
        let sub := p * t.pieceGap + (if j < part then 0 else t.half.getD 0)
        let j' := if j < part then j else j - part
        let dims := if flip then (part, storedR) else (storedR, part)
        layoutCode t.layout.val w dims.1 dims.2 t.stride (fun b => locByte c t.data (sub + b) s) (if flip then j' else i) (if flip then i else j')
      else 0
    scale := fun i n => if i < storedR ∧ n < g then BitVec.ofNat 8 (scaleAt i n 0) else 0
    rowScale := fun i => t.rowScales.map (fun l => if i < storedR then locWord32 c l (4 * i) s else one32)
    hasRowScale := t.rowScales.isSome
    addrScale := fun i n => locAddr c t.scales (if t.scaleLayout.val = 0 then i * t.scaleStride + n else blockedIndex storedR g i n) s
    addrRow := fun i => match t.rowScales with | some l => locAddr c l (4 * i) s | none => 0 }

/-- Runs of bytes of a stored tensor's data; `flip` says that its reduction axis runs down its rows. -/
def tensorSpans (t : NarrowTensor) (flip : Bool) : List (Nat × Nat) :=
  let one (rows cols : Nat) : List (Nat × Nat) := matrixRuns t.layout.val (fmtWidth t.fmt) rows cols t.stride
  let piece : List (Nat × Nat) := match t.half with
    | none => one t.storedRows t.storedCols
    | some h =>
      if flip then one ((t.storedRows + 1) / 2) t.storedCols ++ shiftSpans h (one (t.storedRows / 2) t.storedCols)
      else one t.storedRows ((t.storedCols + 1) / 2) ++ shiftSpans h (one t.storedRows (t.storedCols / 2))
  (List.range t.pieces).flatMap (fun p => shiftSpans (p * t.pieceGap) piece)

/-! ### Accesses of a command -/

/-- One access of a command: its operand, the region that an operand in a core window names (R45), whether it is written, whether its bytes are read as the command runs, and the runs of bytes it reaches from the operand's base. -/
structure Access where
  loc   : Loc
  win   : Option RegionOp
  write : Bool
  reads : Bool
  spans : List (Nat × Nat)
  deriving DecidableEq, Repr

/-- Bytes from an access's base to past its last byte. -/
def Access.len (a : Access) : Nat := spanEnd a.spans

/-- An operand that is read. -/
def accRead (l : Loc) (spans : List (Nat × Nat)) : Access := { loc := l, win := none, write := false, reads := true, spans := spans }

/-- An operand that is written. -/
def accWrite (l : Loc) (spans : List (Nat × Nat)) : Access := { loc := l, win := none, write := true, reads := false, spans := spans }

/-- The place of an operand that a command does not have. -/
def accNone : Access := { loc := .stack 0, win := none, write := false, reads := false, spans := [] }

/-- One run of bytes. -/
def run1 (n : Nat) : List (Nat × Nat) := if n = 0 then [] else [(0, n)]

/-- An optional region operand that is read. -/
def accReadOpt (o : Option RegionOp) (n : Nat) : Access := match o with | some r => accRead (.region r) (run1 n) | none => accNone

/-- An optional operand that is written. -/
def accWriteOpt (l : Option Loc) (spans : List (Nat × Nat)) : Access := match l with | some x => accWrite x spans | none => accNone

/-- Accesses to a stored tensor: its data, its scale codes and its row scales. `shape` is that of the product, rows and reduction length. -/
def tensorAccesses (t : NarrowTensor) (flip : Bool) : List Access :=
  let rows := if flip then t.storedCols else t.storedRows
  let cols := if flip then t.storedRows else t.storedCols
  [accRead t.data (tensorSpans t flip), accRead t.scales (matrixRuns t.scaleLayout.val 8 rows (groupsOf cols t.group) t.scaleStride),
   match t.rowScales with | some l => accRead l (run1 (4 * rows)) | none => accNone]

/-- Element format of what the quantizer writes (R108). -/
def qoutFmt : QOut → Fmt
  | .fp4 => .fp4
  | .e4m3 => .e4m3
  | .e5m2 => .e5m2
  | .sw2 => .e4m3
  | .sw3 => .e4m3

/-- Pieces of a quantizer output. -/
def qoutPieces : QOut → Nat
  | .sw2 => 2
  | .sw3 => 3
  | _ => 1

/-- Stored rows and reduction elements of a wide source (R336). -/
def sourceExtent (q : QuantCmd) : Nat × Nat := match q.stored with | some x => (min x.1 q.rows, min x.2 q.cols) | none => (q.rows, q.cols)

/-- Runs of bytes of a wide source. -/
def quantSource (q : QuantCmd) : List (Nat × Nat) :=
  let x := if q.turned then ((sourceExtent q).2, (sourceExtent q).1) else sourceExtent q
  matrixRuns 0 (fmtWidth q.srcFmt) x.1 x.2 q.stride

/-- Accesses of a quantizing command on either path (R107, R108, R110). -/
def quantAccesses (q : QuantCmd) : List Access :=
  let g := groupsOf q.cols q.p.group
  let elems := matrixRuns q.layout.val (fmtWidth (qoutFmt q.p.out)) q.rows q.cols q.elemStride
  [accRead (.region q.src) (quantSource q), accReadOpt q.saffronList (4 * min 64 q.saffronCount), accReadOpt q.rowScale (4 * q.rows),
   match q.chanMax with | some o => { accWrite (.region o) (run1 (4 * q.cols)) with reads := true } | none => accNone,
   accWriteOpt q.elemDst ((List.range (qoutPieces q.p.out)).flatMap (fun k => shiftSpans (k * q.pieceGap) elems)),
   accWriteOpt q.scaleDst (matrixRuns q.scaleLayout.val 8 q.rows g q.scaleStride),
   accWriteOpt q.rowScaleDst (run1 (4 * q.rows)),
   accWriteOpt q.saffronDst (run1 (q.rows * (64 * qoutPieces q.p.saffronOut + 1))),
   accWriteOpt (q.stats.map Loc.region) (run1 64)]

/-- Accesses of a matrix operand; `flip` says that a stored tensor holds its reduction axis down its rows. -/
def matAccesses (m : MatOperand) (flip : Bool) : List Access :=
  match m with
  | .narrow t => tensorAccesses t flip
  | .wide q => quantAccesses q

/-- A wide operand with the reading that its place in the array asks for: as streamed rows along its rows, as the stationary block by the load orientation (R172). -/
def facing (m : MatOperand) (turned : Bool) : MatOperand :=
  match m with
  | .narrow t => .narrow t
  | .wide q => .wide { q with turned := turned }

/-- Bytes of a row of `n` results of `w` bits at `rows` rows, `stride` apart. -/
def rowRuns (rows stride bytes : Nat) : List (Nat × Nat) :=
  if bytes = 0 then [] else (List.range rows).map (fun i => (i * stride, bytes))

/-- Rows and elements of a stream of `rows` rows of `n` elements that lie in its region: one where its stride is 0 (R55), and no more than is stored (R336). -/
def streamExtent (v : VStream) (rows n : Nat) : Nat × Nat :=
  let x := match v.stored with | some e => (min e.1 rows, min e.2 n) | none => (rows, n)
  (if v.rowStride = 0 then min 1 x.1 else x.1, if v.stride = 0 then min 1 x.2 else x.2)

/-- Runs of bytes that a vector stream reaches in its region: `rows` rows of `n` elements (R194, R201, R202). -/
def streamRuns (v : VStream) (rows n : Nat) : List (Nat × Nat) :=
  let x := streamExtent v rows n
  rowRuns x.1 v.rowStride (packedBytes (fmtWidth v.fmt) x.2)

/-- Is a format narrow, so that a source of it is read with its scales (R198). -/
def isNarrow (f : Fmt) : Bool := f == .fp4 || f == .e4m3 || f == .e5m2

/-- Accesses of a vector source: its elements, its scale codes and its row scales. DESIGN CHOICE (log 125): one run of codes per row, row after row. -/
def sourceAccesses (v : VStream) (rows n : Nat) : List Access :=
  let x := streamExtent v rows n
  let k := if isNarrow v.fmt then 1 else 0
  [accRead (.region v.op) (streamRuns v rows n), accReadOpt v.scales (k * (x.1 * groupsOf x.2 v.group)), accReadOpt v.rowScales (k * (4 * x.1))]

/-- Bytes of one result of a row-wise operation: a value, or a value with its index (R213, R222; log 18). -/
def rowResultBytes : VOp → Nat
  | .reduce .maxIndex _ => 8
  | .draw _ _ _ _ => 8
  | _ => 0

/-- Does an operation write one result per row. -/
def rowWise : VOp → Bool
  | .reduce _ _ => true
  | .draw _ _ _ _ => true
  | _ => false

/-- Elements of a row of results. -/
def outCount (v : VectorCmd) : Nat := if rowWise v.vop then 1 else v.count

/-- Runs of bytes that the destination of a vector command reaches. -/
def destRuns (v : VectorCmd) (rows : Nat) : List (Nat × Nat) :=
  rowRuns rows v.dst.rowStride (if rowResultBytes v.vop = 0 then packedBytes (fmtWidth v.dst.fmt) (outCount v) else 8)

/-- Is a format one of FP8. -/
def isFp8 (f : Fmt) : Bool := f == .e4m3 || f == .e5m2

/-- Group-scale codes that a vector command writes: one per group of each row of an FP8 destination (R199). -/
def codesWritten (v : VectorCmd) (rows : Nat) : Nat := if isFp8 v.dst.fmt && rowResultBytes v.vop == 0 then rows * groupsOf (outCount v) v.dst.group else 0

/-- Table operand of an operation. -/
def tableOf : VOp → Option (RegionOp × Int)
  | .table t b => some (t, b)
  | .tableTimes t b => some (t, b)
  | _ => none

/-- Carry operand of an operation with the bytes of each value. -/
def carryOf : VOp → Option (RegionOp × Nat)
  | .reduce .maxIndex (some o) => some (o, 8)
  | .reduce _ (some o) => some (o, 4)
  | .draw _ _ _ (some o) => some (o, 8)
  | _ => none

/-- Accesses of a vector command of `rows` rows. Of a table, which is named whole, only the entries that the elements select are read (R214). -/
def vectorAccesses (v : VectorCmd) (rows : Nat) : List Access :=
  v.srcs.flatMap (fun x => sourceAccesses x rows v.count) ++
  [match tableOf v.vop with | some t => { accRead (.region t.1) (run1 16384) with reads := false } | none => accNone,
   match carryOf v.vop with | some o => accRead (.region o.1) (run1 (o.2 * rows)) | none => accNone,
   accWrite (.region v.dst.op) (destRuns v rows), accWriteOpt (v.dst.scales.map Loc.region) (run1 (codesWritten v rows))]

/-- Bytes of the long registers of a block from its first row on (R169). -/
def longWidth (p : ExactCmd) : Nat := if p.twoWindow then 64 else 32

/-- Runs of bytes of the long registers that a command reaches: its streamed rows, or every row of the block where it opens or closes it. -/
def longRuns (p : ExactCmd) (rows cols : Nat) : List (Nat × Nat) :=
  let w := longWidth p
  if p.opens || p.closes then rowRuns (max p.blockRows (p.row0 + rows)) (w * 256) (w * cols)
  else shiftSpans (w * 256 * p.row0) (rowRuns rows (w * 256) (w * cols))

/-- The accesses of one repetition of a command, in the order in which its operands are numbered; `d` is its copy descriptor. -/
def onceAccesses (cmd : EngineCmd) (d : CopyDesc) : List Access :=
  match cmd.body with
  | .product p | .saffron p =>
    let a := streamedShape p.a p.transposed
    let b := stationaryShape p.b p.colWise
    matAccesses (facing p.a false) p.transposed ++ matAccesses (facing p.b (!p.colWise)) (!p.colWise) ++
    [{ accWrite (.region p.dst) (rowRuns a.1 p.dstStride (4 * b.1)) with reads := !p.fresh }]
  | .exact p =>
    let a := streamedShape p.a p.transposed
    let b := stationaryShape p.b p.colWise
    matAccesses (facing p.a false) p.transposed ++ matAccesses (facing p.b (!p.colWise)) (!p.colWise) ++
    [{ accWrite (.region p.lr) (longRuns p a.1 b.1) with reads := !p.opens },
     if p.closes then accWrite (.region p.dst) (rowRuns p.blockRows p.dstStride (4 * b.1)) else accNone]
  | .vector v => vectorAccesses v cmd.repeats
  | .checkSlot _ => []
  | .quantize q => quantAccesses q
  | .stackRead src win dst len => [{ accRead (.stack src) (run1 len) with win := win }, accWrite (.region dst) (run1 len)]
  | .stackWrite src dst win len => [accRead (.region src) (run1 len), { accWrite (.stack dst) (run1 len) with win := win }]
  | .copy src dst len => [accRead (.region src) (run1 len), accWrite (.region dst) (run1 len)]
  | .remoteRead src dst len => [accRead (.stack src) (run1 len), accWrite (.region dst) (run1 len)]
  | .layout desc src dst =>
    [{ accRead desc (run1 64) with reads := false }, { accRead (.stack d.src) d.srcSpans with win := src }, { accWrite (.stack d.dst) d.footprints with win := dst }]
  | .invalidate => []
  | .post => []

/-- Repetitions of a command's run that advance its bases (R35): a vector command's rows have their own strides (R201), and a layout command's descriptor has those of its copy. -/
def runsOf (cmd : EngineCmd) : Nat := match cmd.body with | .vector _ => 1 | .layout _ _ _ => 1 | _ => cmd.repeats

/-- Bytes by which the base of operand `n` has advanced at repetition `k` (R35). -/
def advanceOf (cmd : EngineCmd) (k n : Nat) : Nat := k * nth cmd.strides n 0

/-- The accesses of repetition `k` of a command; an exact block is opened and closed once, and its results lie where they are named (R162). -/
def accessesAt (cmd : EngineCmd) (d : CopyDesc) (k : Nat) : List Access :=
  match k, cmd.body with
  | 0, _ => onceAccesses cmd d
  | _, .exact p => moved (onceAccesses { cmd with body := .exact { p with opens := false, closes := false } } d)
  | _, _ => moved (onceAccesses cmd d)
where moved (l : List Access) : List Access :=
  (l.zip (List.range l.length)).map (fun x => { x.1 with spans := shiftSpans (advanceOf cmd k x.2) x.1.spans })

/-- All accesses of a command over its repetitions. -/
def bodyAccesses (cmd : EngineCmd) (d : CopyDesc) : List Access :=
  let l := onceAccesses cmd d
  if runsOf cmd ≤ 1 then l
  else (l.zip (List.range l.length)).map (fun x =>
    { x.1 with spans := (List.range (runsOf cmd)).flatMap (fun k => (nth (accessesAt cmd d k) x.2 accNone).spans) })

/-- The accesses of a running command. -/
def Running.accesses (r : Running) : List Access := bodyAccesses r.q.cmd (copyDesc r.copy)

/-- The core and region operand that an access names, with whether it is written. -/
def Access.named (c : CoreRef) (a : Access) : Option (CoreRef × RegionOp × Bool) :=
  match a.loc with
  | .region o => some (c, o, a.write)
  | .stack x =>
    match addrOf x, a.win with
    | .window d _ _, some o => some (d, o, a.write)
    | _, _ => none

/-- Device address of the first byte that an access reaches. -/
def Access.first (c : CoreRef) (a : Access) (s : State) : Dword := locAddr c a.loc (spanStart a.spans) s

/-- The stack ranges of the bytes that some accesses read. -/
def stackReads (l : List Access) : List (Nat × Nat) :=
  l.flatMap (fun a =>
    match a.loc with
    | .stack x => (match a.reads, addrOf x with | true, .stack n => shiftSpans n a.spans | _, _ => [])
    | .region _ => [])

/-- Effects of a command's reads, of the stacks and of core-local memories (R298 to R302). -/
def commandReadEffects (c : CoreRef) (e : Engine) (l : List Access) (fails : List (Nat × Nat)) (s : State) : State :=
  let s := readEffects (.engine c e) c.tile.val (stackReads l) fails s
  l.foldl (fun s a =>
    if a.reads then
      match a.loc with
      | .region o => a.spans.foldl (fun s x => coreReadEffects (.engine c e) c o.space ((s.core c).opBase o + x.1) x.2 s) s
      | .stack x => (match addrOf x with
        | .window c' m off => a.spans.foldl (fun s x => coreReadEffects (.engine c e) c' m (off + x.1) x.2 s) s
        | _ => s)
    else s) s

/-! ### Repetitions (R35) -/

/-- A region operand moved by an offset. -/
def moveOp (o : RegionOp) (n : Nat) : RegionOp := { o with offset := o.offset + n }

/-- An operand moved by an offset. -/
def moveLoc (l : Loc) (n : Nat) : Loc :=
  match l with
  | .region o => .region (moveOp o n)
  | .stack a => .stack (a + BitVec.ofNat 64 n)

/-- A quantizing command whose operands, numbered as `quantAccesses` numbers them, are moved by `f`. -/
def moveQuant (q : QuantCmd) (f : Nat → Nat) : QuantCmd :=
  { q with
    src := moveOp q.src (f 0), saffronList := q.saffronList.map (fun o => moveOp o (f 1)), rowScale := q.rowScale.map (fun o => moveOp o (f 2))
    chanMax := q.chanMax.map (fun o => moveOp o (f 3)), elemDst := q.elemDst.map (fun l => moveLoc l (f 4)), scaleDst := q.scaleDst.map (fun l => moveLoc l (f 5))
    rowScaleDst := q.rowScaleDst.map (fun l => moveLoc l (f 6)), saffronDst := q.saffronDst.map (fun l => moveLoc l (f 7))
    stats := q.stats.map (fun o => moveOp o (f 8)) }

/-- Operand places of a matrix operand. -/
def places : MatOperand → Nat
  | .narrow _ => 3
  | .wide _ => 9

/-- A matrix operand moved by `f`. -/
def moveMat (m : MatOperand) (f : Nat → Nat) : MatOperand :=
  match m with
  | .narrow t => .narrow { t with data := moveLoc t.data (f 0), scales := moveLoc t.scales (f 1), rowScales := t.rowScales.map (fun l => moveLoc l (f 2)) }
  | .wide q => .wide (moveQuant q f)

/-- A narrow-promotion product whose operands are moved by `f`. -/
def moveProduct (p : ProductCmd) (f : Nat → Nat) : ProductCmd :=
  let n := places p.a
  { p with a := moveMat p.a f, b := moveMat p.b (fun i => f (n + i)), dst := moveOp p.dst (f (n + places p.b)) }

/-- An exact-mode product whose operands and long registers are moved by `f`; its results lie where the command names them. -/
def moveExact (p : ExactCmd) (f : Nat → Nat) : ExactCmd :=
  let n := places p.a
  { p with a := moveMat p.a f, b := moveMat p.b (fun i => f (n + i)), lr := moveOp p.lr (f (n + places p.b)) }

/-! ### Pepper draws -/

/-- The seed and step of the loaded program, zero with none. -/
def State.seed (s : State) : Digest := match s.program with | some p => p.seed | none => 0

/-- Bits of element `i` of a stream (R340 to R345). -/
def State.pepper (s : State) (stream : BitVec 24) (width i : Nat) : Nat := pepperBits s.seed s.stepNo stream width i

/-- A lane group's last block: seed, stream, step word, block number; none before the first. -/
abbrev Generators := Sparse (Option (Digest × BitVec 24 × Nat × Nat))

/-- The generators of a unit after a lane group needs a block, and the blocks it computes: none when it holds that block (R344). -/
def generate (g : Generators) (group : Nat) (want : Digest × BitVec 24 × Nat × Nat) : Generators × Nat :=
  if Sparse.look (fun _ => none) g group = some want then (g, 0)
  else (Sparse.store (fun _ => none) g group (some want), 1)

/-- The generators after a list of draws (lane group, stream, block) in order, with the blocks computed. -/
def generateAll (seed : Digest) (step : Word) (g : Generators) (l : List (Nat × BitVec 24 × Nat)) : Generators × Nat :=
  l.foldl (fun acc d => let r := generate acc.1 d.1 (seed, d.2.1, pepperStepWord d.2.1 step, d.2.2); (r.1, acc.2 + r.2)) (g, 0)

/-- Counts the blocks that a core's generators compute (R344, R347). -/
def drawCore (c : CoreRef) (l : List (Nat × BitVec 24 × Nat)) (s : State) : State :=
  let r := generateAll s.seed s.stepNo (s.core c).pepper l
  (s.modCore c (fun k => { k with pepper := r.1 })).count Off.lxCount 3 r.2

/-- Counts the blocks that an update unit's generators compute. -/
def drawUU (t : Nat) (l : List (Nat × BitVec 24 × Nat)) (s : State) : State :=
  let u := s.uu t
  let r := generateAll s.seed s.stepNo u.pepper l
  (s.setUU t { u with pepper := r.1 }).count Off.lxCount 3 r.2

/-- Lane groups of the quantizer paths, the vector engine and an update unit: 32 lanes each of 256 (log 19). -/
def laneGroup (unit lane : Nat) : Nat := 8 * unit + lane % 256 / 32

/-! ### Fault injection inside a unit (R381 to R383) -/

/-- The armed injection, if it is for this unit and point and its time has come. -/
def injecting (unit : UnitId) (point : Nat) (s : State) : Bool :=
  let c := s.reg Off.injectCtl
  bit c 0 && bits c 1 4 == point && bits (s.reg Off.injectUnit) 0 16 == unit.toNat &&
  decide ((s.reg Off.injectWhen).toNat ≤ s.now.toNat)

/-- Clears ARM when the injection fires (R382). -/
def disarm (s : State) : State := s.setField Off.injectCtl 0 1 0

/-- BIT modulo the width of the value (R382). -/
def injectBit (width : Nat) (s : State) : Nat := bits (s.reg Off.injectUnit) 16 6 % width

/-- COLUMN of the injection. -/
def injectColumn (s : State) : Nat := bits (s.reg Off.injectUnit) 22 8

/-- Points 0 and 1 in a core: the first word that a command reads of the core's SRAMs has a stored bit flipped. -/
def injectCoreWord (c : CoreRef) (o : RegionOp) (s : State) : State :=
  let u := s.coreUnit c
  let k := s.core c
  let i := k.opBase o / 4
  let flip (b : Nat) (s : State) : State :=
    disarm (s.setCore c (k.setMem o.space ((k.mem o.space).put i ((k.mem o.space).code i ^^^ BitVec.ofNat 39 (2 ^ b)))))
  if injecting u 0 s then flip (injectBit 32 s) s
  else if injecting u 1 s then flip (32 + injectBit 7 s) s
  else s

/-- Point 2 in a core: the parity of a byte in flight fails at the next check, 0x208C. -/
def injectPath (c : CoreRef) (e : Engine) (s : State) : State :=
  if injecting (s.coreUnit c) 2 s then raiseFor c e { code := 0x208C, unit := 0, injected := true } (disarm s) else s

/-- Points 0 to 2 at the start of a command's reads in a core. -/
def injectReads (c : CoreRef) (e : Engine) (l : List Access) (s : State) : State :=
  let first := l.find? (fun a => a.reads && decide (0 < a.len) && (match a.loc with | .region _ => true | _ => false))
  match first with
  | some { loc := .region o, spans := x, .. } => injectPath c e (injectCoreWord c (moveOp o (spanStart x)) s)
  | _ => injectPath c e s

/-- A byte in flight on a path of the core that carries byte parity fails: 0x208C (R348). -/
def corePath (c : CoreRef) (e : Engine) (fails : Bool) (s : State) : State := if fails then raiseFor c e { code := 0x208C, unit := 0 } s else s

/-- Does an upset strike a path that carries byte parity. -/
def strikesPath (up : Option Upset) : Bool := match up with | some u => u.at_ == .path | none => false

/-- Points 0 and 1 in a stack channel: the first word of the channel that a read reaches has a stored bit flipped. -/
def injectStackWord (t : Nat) (ranges : List (Nat × Nat)) (s : State) : State :=
  (ranges.flatMap (fun r => pieces r.1 r.2)).foldl (fun s p =>
    let e := s.entryFor t (p.1 / stripeBytes)
    let k := physWord e.loc (p.1 % stripeBytes / 4)
    let u := unitChan e.loc.q
    if e.readable && injecting u 0 s then disarm (s.storeCode k (s.stored k ^^^ BitVec.ofNat 39 (2 ^ injectBit 32 s)))
    else if e.readable && injecting u 1 s then disarm (s.storeCode k (s.stored k ^^^ BitVec.ofNat 39 (2 ^ (32 + injectBit 7 s))))
    else s) s

/-- Point 2 in a stack channel: one byte's parity fails, the re-read passes, and a corrected path error is counted (R302). -/
def injectStackPath (t : Nat) (ranges : List (Nat × Nat)) (s : State) : State :=
  (ranges.flatMap (fun r => pieces r.1 r.2)).foldl (fun s p =>
    let e := s.entryFor t (p.1 / stripeBytes)
    if e.readable && injecting (unitChan e.loc.q) 2 s then chanCE e.loc.q ((disarm s).count Off.memCount 0) else s) s

/-- Points 0 to 2 in the channels that a command's stack reads reach. -/
def injectStack (t : Nat) (ranges : List (Nat × Nat)) (s : State) : State := injectStackPath t ranges (injectStackWord t ranges s)

/-- Bits that reads find flipped in stored codewords (log 8). -/
def applyFlips (flips : List (Nat × Codeword)) (s : State) : State := flips.foldl (fun s x => s.storeCode x.1 (s.stored x.1 ^^^ x.2)) s

/-- The physical conditions of repetition `k` of a command, whose pieces are numbered on from those of the repetitions before it. -/
def errsAt (cmd : EngineCmd) (d : CopyDesc) (errs : ReadErrs) (k : Nat) : ReadErrs :=
  let before := total ((List.range k).map (fun j => ((stackReads (accessesAt cmd d j)).flatMap (fun r => pieces r.1 r.2)).length))
  { flips := if k = 0 then errs.flips else []
    parity := errs.parity.filterMap (fun f => if before ≤ f.1 then some (f.1 - before, f.2) else none) }

/-- The effects of every read of repetition `k` of a command: injections and flipped bits first, then what the words hold and what the paths lose. -/
def beginReads (c : CoreRef) (e : Engine) (r : Running) (errs : ReadErrs) (k : Nat) (s : State) : State :=
  let d := copyDesc r.copy
  let l := accessesAt r.q.cmd d k
  let errs := errsAt r.q.cmd d errs k
  commandReadEffects c e l errs.parity (injectStack c.tile.val (stackReads l) (injectReads c e l (applyFlips errs.flips s)))

/-- The physical conditions and injections of a read of the stacks by the hub die, before what the words hold counts (R302, R382). -/
def hubRead (ranges : List (Nat × Nat)) (errs : ReadErrs) (s : State) : State :=
  pathEffects (.device 0 []) 4 (ranges.flatMap (fun r => pieces r.1 r.2)) errs.parity (injectStack 4 ranges (applyFlips errs.flips s))

/-- No physical condition. -/
def noErrs : ReadErrs := { flips := [], parity := [] }

end Sys2Proof.Machine
end

