-- ==== Sys2Proof/Machine/Fabric.lean ====
section
/-! DEFINITION. The Lumbicy link layer and port states (11): flits, sequence numbers, credits, replay, the states of R403,
discovery and the cabling-plan check, link injections, and messages as flits. -/

namespace Sys2Proof.Machine

/-! ### Ports -/

/-- Credits of a virtual channel after link training (R401). -/
def creditStart (v : Nat) : Nat := nth [256, 128, 128, 32] v 0

/-- A port at reset: DOWN. -/
def portReset (_ : Nat) : Port :=
  { link := .down, plan := 0, inService := false, partner := 0, lanes := 0, degraded := false, latency := 0, peer := none,
    txSeq := 0, rxNext := 0, nacked := false, replay := [], sentAt := [], fruitless := 0, waiting := [], credits := [], receive := [],
    heldMsg := none, heldFlit := none, struck := false }

/-- A port. -/
def State.port (s : State) (p : Nat) : Port := Sparse.look portReset s.fabric.ports p

/-- Replaces a port. -/
def State.setPort (s : State) (p : Nat) (x : Port) : State :=
  { s with fabric := { s.fabric with ports := Sparse.store portReset s.fabric.ports p x } }

/-- The ports in service, in ascending order (R406). -/
def State.inService (s : State) : List Nat := (List.range 48).filter (fun p => (s.port p).inService)

/-- This device's fabric id. -/
def State.deviceId (s : State) : BitVec 16 := BitVec.ofNat 16 (bits (s.inJob Off.deviceId) 0 16)

/-- Unit id of a port (R353). -/
def unitPort (p : Nat) : UnitId := unitId 5 0 p

/-- Credits held for a virtual channel. -/
def Port.credit (x : Port) (v : Nat) : Nat := Sparse.look creditStart x.credits v

/-- Adds credits. -/
def Port.addCredit (x : Port) (v n : Nat) : Port := { x with credits := Sparse.store creditStart x.credits v (x.credit v + n) }

/-- Takes one credit. -/
def Port.takeCredit (x : Port) (v : Nat) : Port := { x with credits := Sparse.store creditStart x.credits v (x.credit v - 1) }

/-! ### Flits (R395, R396) -/

/-- Bytes 0 to 251 of a flit (R395). -/
def flitBody (f : Flit) : List Byte :=
  leBytes 12 (f.type.toNat + 2 ^ 4 * f.vc.toNat + 2 ^ 6 * flag f.first + 2 ^ 7 * flag f.last + 2 ^ 8 * f.seq.toNat +
    2 ^ 20 * f.ack.toNat + 2 ^ 32 * f.dst.toNat + 2 ^ 48 * f.src.toNat + 2 ^ 64 * f.credVc.toNat + 2 ^ 66 * f.credN.toNat +
    2 ^ 76 * f.len.toNat) ++ f.payload

/-- A flit with its CRC. -/
def sealFlit (f : Flit) : Flit := { f with crc := crc32 (flitBody f) }

/-- Does a flit's CRC hold. -/
def flitOk (f : Flit) : Bool := f.crc == crc32 (flitBody f)

/-- A payload of 240 bytes that begins with the given ones. -/
def pad240 (l : List Byte) : List Byte := l ++ List.replicate (240 - l.length) 0

/-- A flit before it has SEQ, ACK and CRC. -/
def rawFlit (type : BitVec 4) (vc : BitVec 2) (dst : BitVec 16) (payload : List Byte) (s : State) : Flit :=
  { type := type, vc := vc, first := true, last := true, seq := 0, ack := 0, dst := dst, src := s.deviceId, credVc := 0,
    credN := 0, len := BitVec.ofNat 8 payload.length, payload := pad240 payload, crc := 0 }

/-- SEQ of the last flit received in order, which every outgoing flit carries in ACK (R396). -/
def Port.lastIn (x : Port) : BitVec 12 := x.rxNext - 1

/-- An idle flit, with ACK and a returned credit. -/
def idleFlit (x : Port) (vc : BitVec 2) (n : Nat) (s : State) : Flit :=
  sealFlit { rawFlit 0 0 0 [] s with ack := x.lastIn, credVc := vc, credN := BitVec.ofNat 10 n, first := false, last := false }

/-! ### Link injections (R436) -/

/-- The mode of an armed injection that acts now on a port: at every flit or message in 2^RATE, or once. -/
def linkInject (p mode : Nat) (s : State) : Bool :=
  let c := s.reg Off.fabInject
  bit c 0 && bits c 1 2 == mode && bits c 4 6 == p && (bit c 3 || (s.fabric.injectSeen + 1) % 2 ^ bits c 10 5 == 0)

/-- Is an injection of a mode armed on a port. -/
def linkArmed (p mode : Nat) (s : State) : Bool :=
  let c := s.reg Off.fabInject
  bit c 0 && bits c 1 2 == mode && bits c 4 6 == p

/-- Counts a flit or message seen by an armed injection. -/
def injectPass (s : State) : State := { s with fabric := { s.fabric with injectSeen := s.fabric.injectSeen + 1 } }

/-- Counts an injection performed on a port, and clears ARM after a one-shot. -/
def injectDone (p : Nat) (s : State) : State :=
  let s := ((injectPass s).setPort p { s.port p with struck := true }).count Off.fabCount 7
  if bit (s.reg Off.fabInject) 3 then s.setField Off.fabInject 0 1 0 else s

/-- Puts a stored flit on the wire, under an armed injection: dropped, with a CRC bit inverted, or exchanged with the next of its virtual channel. -/
def wire (p : Nat) (f : Flit) (s : State) : State :=
  let x := s.port p
  match x.heldFlit with
  | some h =>
    if h.vc == f.vc then (((s.setPort p { x with heldFlit := none }).emit (.flit p f)).emit (.flit p h))
    else s.emit (.flit p f)
  | none =>
    if linkArmed p 0 s then (if linkInject p 0 s then injectDone p s else (injectPass s).emit (.flit p f))
    else if linkArmed p 1 s then
      (if linkInject p 1 s then (injectDone p s).emit (.flit p { f with crc := f.crc ^^^ 1 }) else (injectPass s).emit (.flit p f))
    else if linkArmed p 2 s then
      (if linkInject p 2 s then (injectDone p s).setPort p { x with heldFlit := some f, struck := true } else (injectPass s).emit (.flit p f))
    else s.emit (.flit p f)

/-! ### Sending flits (R396, R399, R401) -/

/-- May a port send a sequenced flit now. -/
def Port.mayCarry (x : Port) (f : Flit) : Bool :=
  (x.link == .up || x.link == .discovery) && decide (0 < x.credit f.vc.toNat) && decide (x.replay.length < 1024)

/-- Sends a sequenced flit: it takes a credit and the next SEQ, and is stored for replay. -/
def transmit (p : Nat) (f : Flit) (s : State) : State :=
  let x := s.port p
  let f := sealFlit { f with seq := x.txSeq, ack := x.lastIn }
  let y := x.takeCredit f.vc.toNat
  wire p f (s.setPort p { y with txSeq := x.txSeq + 1, replay := x.replay ++ [f], sentAt := x.sentAt ++ [s.now] })

/-- Sends waiting flits whose virtual channel has credits, each channel in order; `k` bounds how many. -/
def drainPort (p : Nat) : Nat → State → State
  | 0, s => s
  | k + 1, s =>
    let x := s.port p
    match x.waiting.find? x.mayCarry with
    | some f => drainPort p k (transmit p f (s.setPort p { x with waiting := x.waiting.erase f }))
    | none => s

/-- Gives flits to a port, in order. -/
def sendFlits (p : Nat) (fs : List Flit) (s : State) : State :=
  let x := s.port p
  drainPort p (x.waiting.length + fs.length) (s.setPort p { x with waiting := x.waiting ++ fs })

/-- Sends one control flit (R418) on a port. -/
def controlOn (p : Nat) (dst : BitVec 16) (payload : List Byte) (s : State) : State :=
  sendFlits p [rawFlit 2 3 dst payload s] s

/-- The port on which a device sends message `c` to device `d` (R406). -/
def portFor (c d : Nat) (s : State) : Option Nat :=
  let l := s.inService
  if l.isEmpty then none else l[(c + d) % l.length]?

/-- Sends a control flit to a device, on the port that its message 0 would take (log 27). -/
def sendControl (dst : BitVec 16) (payload : List Byte) (s : State) : State :=
  match portFor 0 dst.toNat s with
  | some p => controlOn p dst payload s
  | none => s

/-! ### Acknowledgement and replay (R397 to R400) -/

/-- Drops from a replay buffer the flits up to and including the one acknowledged. -/
def ackedUp (ack : BitVec 12) (l : List Flit) : List Flit :=
  match l.findIdx? (fun f => f.seq == ack) with
  | some i => l.drop (i + 1)
  | none => l

/-- Takes an ACK field: flits acknowledged leave the replay buffer. -/
def takeAck (p : Nat) (ack : BitVec 12) (s : State) : State :=
  let x := s.port p
  let r := ackedUp ack x.replay
  let advance := decide (r.length < x.replay.length)
  s.setPort p { x with replay := r, sentAt := x.sentAt.drop (x.replay.length - r.length),
                       fruitless := if advance then 0 else x.fruitless, struck := x.struck && !advance }

/-- Takes a port down: its flits are lost, and it leaves service (R403). -/
def portDown (p : Nat) (s : State) : State :=
  let x := s.port p
  s.setPort p { portReset p with plan := x.plan, partner := x.partner, degraded := x.degraded, latency := x.latency, peer := x.peer }

/-- Replays every unacknowledged flit in order; after 8 replays in a row without an advance of ACK the next one takes the port down with 0x3002 (R400). -/
def replayPort (p : Nat) (s : State) : State :=
  let x := s.port p
  if 8 ≤ x.fruitless then raise { code := 0x3002, unit := unitPort p, injected := x.struck } (portDown p s)
  else
    let s := s.setPort p { x with fruitless := x.fruitless + 1, sentAt := x.replay.map (fun _ => s.now) }
    let s := s.count Off.fabCount 0 x.replay.length
    x.replay.foldl (fun s f => s.emit (.flit p (sealFlit { f with ack := x.lastIn }))) s

/-! ### Messages as flits (R406, R407) -/

/-- The 32 bytes of a message header (R407). -/
def headerBytes (h : MsgHeader) : List Byte :=
  [h.op, h.version] ++ leBytes 2 h.placeEpoch.toNat ++ leBytes 4 h.coll.toNat ++ leBytes 4 h.chunk.toNat ++
  leBytes 4 h.length.toNat ++ leBytes 8 h.address.toNat ++ leBytes 4 h.step.toNat ++ leBytes 2 h.srcRank.toNat ++ leBytes 2 0

/-- Reads a message header. -/
def headerOf (b : List Byte) : MsgHeader :=
  { op := BitVec.ofNat 8 (byteField b 0 1), version := BitVec.ofNat 8 (byteField b 1 1),
    placeEpoch := BitVec.ofNat 16 (byteField b 2 2), coll := BitVec.ofNat 32 (byteField b 4 4),
    chunk := BitVec.ofNat 32 (byteField b 8 4), length := BitVec.ofNat 32 (byteField b 12 4),
    address := BitVec.ofNat 64 (byteField b 16 8), step := BitVec.ofNat 32 (byteField b 24 4),
    srcRank := BitVec.ofNat 16 (byteField b 28 2) }

/-- Virtual channel of a message (R395): transfers and remote-read requests 1, responses 2, what collectives send 0. -/
def vcOf (op : Nat) (transfer : Bool) : BitVec 2 :=
  if op = 5 then 1 else if op = 6 then 2 else if transfer || op == 4 then 1 else 0

/-- Bytes cut into pieces of 240; `k` bounds how many. -/
def cut240 : Nat → List Byte → List (List Byte)
  | 0, _ => []
  | k + 1, l => if l.isEmpty then [] else l.take 240 :: cut240 k (l.drop 240)

/-- The flits of a message. -/
def messageFlits (vc : BitVec 2) (dst : BitVec 16) (m : Msg) (s : State) : List Flit :=
  let bytes := headerBytes m.hdr ++ m.payload
  let parts := cut240 (bytes.length / 240 + 1) bytes
  (List.range parts.length).map (fun i =>
    { rawFlit 1 vc dst (nth parts i []) s with first := i == 0, last := i + 1 == parts.length })

/-- Puts a message on a port, under an armed message-delay injection (R436): it waits until the next message to the same destination has left. -/
def putMessage (p : Nat) (vc : BitVec 2) (dst : BitVec 16) (m : Msg) (s : State) : State :=
  let x := s.port p
  match x.heldMsg with
  | some (d, h) =>
    if d == dst then
      let s := sendFlits p (messageFlits vc dst m s) (s.setPort p { x with heldMsg := none })
      sendFlits p (messageFlits vc dst h s) s
    else sendFlits p (messageFlits vc dst m s) s
  | none =>
    if linkArmed p 3 s then
      (if linkInject p 3 s then (injectDone p s).setPort p { x with heldMsg := some (dst, m), struck := true }
       else let s := injectPass s; sendFlits p (messageFlits vc dst m s) s)
    else sendFlits p (messageFlits vc dst m s) s

/-- The placement epoch that this device's rank table holds for a device (R407). -/
def State.rankEpoch (s : State) (dev : BitVec 16) : Option (BitVec 16) :=
  (s.fabric.rankActive.find? (fun r => r.1 == dev)).map (fun r => r.2)

/-- Sends a message: it travels on one port, or waits for one (log 147), and stays outstanding until it is acknowledged (R406, R408). -/
def sendMsg (dst : BitVec 16) (transfer : Bool) (h : MsgHeader) (payload : List Byte) (s : State) : State :=
  let h := { h with version := 1, length := BitVec.ofNat 32 payload.length, placeEpoch := (s.rankEpoch dst).getD 0 }
  let m : Msg := { src := s.deviceId, hdr := h, payload := payload }
  let put (p : Nat) (s : State) : State :=
    putMessage p (vcOf h.op.toNat transfer) dst m
      { s with fabric := { s.fabric with out := s.fabric.out ++ [{ dst := dst, msg := m, port := p, sentAt := s.now }] } }
  match portFor h.chunk.toNat dst.toNat s with
  | some p => put p s
  | none => { s with fabric := { s.fabric with out := s.fabric.out ++ [{ dst := dst, msg := m, port := 48, sentAt := s.now }] } }

/-! ### Peers (R420, R423) -/

/-- The other devices of the job's rank table (R413). -/
def State.jobPeers (s : State) : List (BitVec 16) := ((s.fabric.rankActive.map (fun r => r.1)).filter (fun d => d != s.deviceId)).eraseDups

/-- What the device holds of a peer. -/
def State.peer (s : State) (d : BitVec 16) : Peer :=
  (s.fabric.peers.find? (fun x => x.id == d)).getD { id := d, heard := 0, probed := none, unanswered := 0, lost := false }

/-- Replaces what the device holds of a peer. -/
def State.setPeer (s : State) (x : Peer) : State :=
  { s with fabric := { s.fabric with peers := s.fabric.peers.filter (fun y => y.id != x.id) ++ [x] } }

/-- A flit from a peer restarts its probe timer (R423). -/
def heardFrom (d : BitVec 16) (s : State) : State :=
  if d ∈ s.jobPeers then s.setPeer { s.peer d with heard := s.now, probed := none, unanswered := 0 } else s

/-! ### Receiving (R397, R398, R402, R407) -/

/-- The message that the flits of one virtual channel spell, if they hold a whole header. -/
def assemble (l : List Flit) : Option Msg :=
  let b := l.flatMap (fun f => f.payload.take f.len.toNat)
  match l with
  | [] => none
  | f :: _ =>
    if b.length < 32 then none
    else some { src := f.src, hdr := headerOf b, payload := b.drop 32 }

/-- Passes a data flit on to the transport layer: the last flit of a message completes it. -/
def passOn (p : Nat) (f : Flit) (s : State) : State :=
  let x := s.port p
  let kept := if f.first then x.receive.filter (fun g => g.vc != f.vc) else x.receive
  if f.last then
    let mine := kept.filter (fun g => g.vc == f.vc) ++ [f]
    let s := s.setPort p { x with receive := kept.filter (fun g => g.vc != f.vc) }
    match assemble mine with
    | some m => { s with fabric := { s.fabric with inbox := s.fabric.inbox ++ [m] } }
    | none => s
  else s.setPort p { x with receive := kept ++ [f] }

/-- Discards a flit and sends one nack, whose ACK names the last flit received in order (R398). -/
def nackFlit (p : Nat) (s : State) : State :=
  let x := s.port p
  if x.nacked then s else sendFlits p [rawFlit 3 3 0 [] s] (s.setPort p { x with nacked := true })

/-- Takes the ACK and the credits of a flit, and sends what they free (R396, R401). -/
def takeReturns (p : Nat) (f : Flit) (s : State) : State :=
  let s := takeAck p f.ack s
  let s := s.setPort p ((s.port p).addCredit f.credVc.toNat f.credN.toNat)
  drainPort p (s.port p).waiting.length s

/-- FLIT_RECEIVE: link-layer reception of the flit in a slot of its frame (R392, R396 to R398, R401, R402); a frame with an uncorrectable lane is counted at its first slot (R441). What a control flit or a nack asks for is the step of its own row. A flit of a reserved type is left alone (log 145). -/
def execFlitReceive (p : Fin 48) (f : Flit) (lanes : LaneReport) (s : State) : Host.Outcome State Fault Refusal :=
  let slot := lanes.slot
  let lanesOk := lanes.ok
  let x := s.port p.val
  if !(x.link == .up || x.link == .discovery) then .next s
  else
    let s := if lanesOk || slot.val != 0 then s else s.count Off.fabCount 1
    if !lanesOk || !flitOk f then .next (nackFlit p.val s)
    else if f.type == 0 then .next (heardFrom f.src (takeReturns p.val f s))
    else if f.type == 1 || f.type == 2 || f.type == 3 then
      if f.seq == x.rxNext then
        let s := s.setPort p.val { x with rxNext := x.rxNext + 1, nacked := false }
        let s := heardFrom f.src (takeReturns p.val f s)
        let s := if f.type == 1 then passOn p.val f s else s
        .next (s.emit (.flit p.val (idleFlit (s.port p.val) f.vc 1 s)))
      else .next (nackFlit p.val s)
    else .next s

/-- NACK_RECEIVE: the flits up to the nack's ACK are acknowledged, and every later unacknowledged flit is replayed (R400). -/
def execNackReceive (p : Fin 48) (ack : BitVec 12) (s : State) : Host.Outcome State Fault Refusal :=
  let x := s.port p.val
  if x.link == .up || x.link == .discovery then
    let s := takeAck p.val ack s
    .next (if (s.port p.val).replay.isEmpty then s else replayPort p.val s)
  else .next s

/-- Ticks in a microsecond. -/
def us (n : Nat) : Nat := n * 1000

/-- Have more than `n` microseconds passed since a time. -/
def longerThan (t : Dword) (n : Nat) (s : State) : Bool := decide (t.toNat + us n < s.now.toNat)

/-- A field of FAB_TIMERS in microseconds, where 0 acts as `least`. -/
def timerUs (lo n least : Nat) (s : State) : Nat :=
  let v := bits (s.act Off.timers) lo n
  if v = 0 then least else v

/-- REPLAY_TIMEOUT: the oldest unacknowledged flit has waited longer than REPLAY_US (R400). -/
def execReplayTimeout (p : Fin 48) (s : State) : Host.Outcome State Fault Refusal :=
  let x := s.port p.val
  let waited := match x.sentAt.head? with | some t => longerThan t (timerUs 0 8 1 s) s | none => false
  if (x.link == .up || x.link == .discovery) && !x.replay.isEmpty && waited then .next (replayPort p.val s) else .next s

/-! ### Port states (R403, R404) -/

/-- SIGNAL_DETECT: a DOWN port enters TRAINING. -/
def execSignalDetect (p : Fin 48) (s : State) : Host.Outcome State Fault Refusal :=
  let x := s.port p.val
  if x.link == .down then .next (s.setPort p.val { x with link := .training }) else .next s

/-- A new job: a port that is up with all its lanes may serve again (R404). -/
def jobPort (x : Port) : Port := { x with degraded := (x.link == .up || x.link == .discovery) && decide (x.lanes < 4) }

/-- A port that failed its training is enabled again and trains (R403; log 146). -/
def reenable (p : Nat) (s : State) : State :=
  if (s.port p).link == .failed then s.setPort p { s.port p with link := .training } else s

/-- What a write of FAB_PLAN does to its port, once stored: with USED set it enables again a port that failed its training (log 146). -/
def writePlan (p : Nat) (s : State) : State := if bit (s.reg (Off.plan p)) 63 then reenable p s else s

/-- LANES_LOCKED: TRAINING ends in DISCOVERY with full credits and the device's identity sent; fewer than 4 lanes raise 0x3003 and keep the port out of service (R401, R403, R404). -/
def execLanesLocked (p : Fin 48) (lanes : Nat) (s : State) : Host.Outcome State Fault Refusal :=
  let x := s.port p.val
  if x.link == .training then
    let y := { x with link := .discovery, lanes := lanes, degraded := decide (lanes < 4) || (x.degraded && s.program.isSome), credits := [] }
    let s := s.setPort p.val y
    let s := if lanes < 4 then raise { code := 0x3003, unit := unitPort p.val } s else s
    let plane := bits (s.reg (Off.plan p.val)) 48 8
    .next (controlOn p.val 0 ([0x06#8, 0, 0, 0] ++ leBytes 4 s.deviceId.toNat ++ leBytes 2 p.val ++ [BitVec.ofNat 8 plane, 0, 0, 0, 0, 0]) s)
  else .next s

/-- TRAINING_TIMEOUT: training has not completed within 100 ms, and the port enters FAILED. -/
def execTrainingTimeout (p : Fin 48) (s : State) : Host.Outcome State Fault Refusal :=
  let x := s.port p.val
  if x.link == .training then .next (s.setPort p.val { x with link := .failed }) else .next s

/-- LINK_LOSS: an UP port goes DOWN with 0x3001. -/
def execLinkLoss (p : Fin 48) (s : State) : Host.Outcome State Fault Refusal :=
  if (s.port p.val).link == .up then .next (raise { code := 0x3001, unit := unitPort p.val } (portDown p.val s)) else .next s

/-- DISCOVERY: the peer's identity is recorded and the port becomes UP (R403, R411). -/
def execDiscovery (p : Fin 48) (switch : BitVec 32) (swPort : BitVec 16) (plane : Byte) (s : State) : Host.Outcome State Fault Refusal :=
  let x := s.port p.val
  if x.link == .discovery then .next (s.setPort p.val { x with link := .up, peer := some (switch, swPort, plane) }) else .next s

/-! ### The cabling-plan check (R411, R412) -/

/-- Does a plan entry name this peer. -/
def planMatches (entry : Dword) (peer : BitVec 32 × BitVec 16 × Byte) : Bool :=
  bits entry 0 32 == peer.1.toNat && bits entry 32 16 == peer.2.1.toNat && bits entry 48 8 == peer.2.2.toNat

/-- The result for a port and, for Swapped, its partner (R411). -/
def planResult (p : Nat) (s : State) : Nat × Nat :=
  let x := s.port p
  let e := s.reg (Off.plan p)
  if !bit e 63 then (6, 0)
  else match x.link, x.peer with
    | .up, some peer =>
      if x.degraded then (5, 0)
      else if planMatches e peer then (1, 0)
      else match (List.range 48).find? (fun q => q != p && bit (s.reg (Off.plan q)) 63 && planMatches (s.reg (Off.plan q)) peer) with
        | some q => (3, q)
        | none => (4, 0)
    | _, _ => (2, 0)

/-- Runs the check: only ports that report Match are in service; each mismatch raises 0x3010, and too few ports in service raise 0x3011 (R412). -/
def planCheck (s : State) : State :=
  let s := (List.range 48).foldl (fun s p =>
    let r := planResult p s
    let s := s.setPort p { s.port p with plan := r.1, partner := r.2, inService := r.1 == 1 }
    if r.1 == 1 || r.1 == 6 then s else raise { code := 0x3010, unit := unitPort p } s) s
  let few := decide (s.inService.length < bits (s.reg Off.planCtl) 8 8)
  let s := { (s.setField Off.planCtl 7 1 1) with fabric := { s.fabric with noFabric := few } }
  if few then raise { code := 0x3011, unit := 0 } s else s

/-! ### Time alignment (R431 to R433) -/

/-- A 64-bit difference as a signed number of 1/256 ticks. -/
def tickDiff (a b : Dword) : Int := (a - b).toInt

/-- Is a port the one that the device aligns on. -/
def isTimePort (p : Nat) (s : State) : Bool :=
  let c := s.reg Off.timeCtl
  !bit c 0 && p == (if s.clock.onAlt then bits c 16 6 else bits c 8 6)

/-- Aligns to an offset: the first time by one step, then by slewing; aligned after 16 exchanges in a row within ±2 ns (R432). -/
def alignTo (off : Int) (c : Clock) : Clock :=
  let good := if off.natAbs ≤ 512 then c.good + 1 else 0
  let c := { c with good := good, aligned := c.aligned || decide (16 ≤ good), offset := BitVec.ofInt 32 off }
  if c.stepped then { c with slew := off }
  else { c with stepped := true, time := BitVec.ofNat 72 ((c.time.toNat : Int) + off).toNat }

/-- TIMING_BLOCK_RECEIVE: the link's latency, and on the time port the offset to the peer (R432). -/
def execTimingBlockReceive (p : Fin 48) (b : TimingBlock) (s : State) : Host.Outcome State Fault Refusal :=
  let fwd := tickDiff b.tRxLast b.tTxLast
  let back := tickDiff b.arrival b.tTx
  let x := s.port p.val
  let s := s.setPort p.val { x with latency := BitVec.ofInt 32 (Int.tdiv (fwd + back) 2) }
  if isTimePort p.val s then .next { s with clock := alignTo (Int.tdiv (fwd - back) 2) s.clock } else .next s

/-- TIME_PORT_SILENCE: no timing block for 1 ms on the time port; alignment moves to ALT_PORT (R433). -/
def execTimePortSilence (s : State) : Host.Outcome State Fault Refusal :=
  if bit (s.reg Off.timeCtl) 0 then .next s else .next { s with clock := { s.clock with onAlt := true, good := 0 } }

/-- TIME_OFFSET_EXCEEDED: the offset has stayed beyond ±4 ns for 1 ms; ALIGNED clears and 0x3040 is raised (R433). -/
def execTimeOffsetExceeded (s : State) : Host.Outcome State Fault Refusal :=
  if bit (s.reg Off.timeCtl) 0 then .next s
  else .next (raise { code := 0x3040, unit := 0 } { s with clock := { s.clock with aligned := false, good := 0 } })

end Sys2Proof.Machine
end

