-- ==== Sys2Proof/Machine/Flags.lean ====
section
/-! DEFINITION. The status words: of the quantizer (R138 to R140), the matrix engine (R185, R186) and the vector
engine (R224), with the counts they are built from. -/

namespace Sys2Proof.Machine

/-! ### Quantizer -/

/-- What a quantizing command counts over its main path (R135, R136). -/
structure QStat where
  elements : Nat
  clipped  : Nat
  groups   : Nat
  high     : Nat
  low      : Nat
  lost     : Nat
  nan      : Nat              -- NaN groups, NaN saffron blocks included
  zero     : Nat
  allSat   : Nat
  nanRow   : Bool             -- NAN set by a row scale (R123)
  hist     : List Nat         -- 16 bins of the scale exponent (R128)
  deriving DecidableEq, Repr

/-- Nothing counted. -/
def QStat.empty : QStat :=
  { elements := 0, clipped := 0, groups := 0, high := 0, low := 0, lost := 0, nan := 0, zero := 0, allSat := 0,
    nanRow := false, hist := List.replicate 16 0 }

/-- CLIP of R138. -/
def QStat.clip (q : QStat) : Nat := min 65535 (q.clipped * 65536 / q.elements)

/-- OVER of R139: an enabled limit is reached. -/
def QStat.beyond (p : QuantParams) (q : QStat) : Bool :=
  (p.clipLimit != 0 && decide (p.clipLimit.toNat ≤ q.clip)) ||
  (p.satLimit != 0 && decide (p.satLimit.toNat ≤ min 65535 q.allSat)) ||
  (p.lostLimit != 0 && decide (p.lostLimit.toNat ≤ q.lost))

/-- NAN of R138. -/
def QStat.nanBit (q : QStat) : Bool := decide (0 < q.nan) || q.nanRow

/-- ADVICE of R140. -/
def qAdvice (nan refused beyond : Bool) (rung : Nat) : Nat :=
  if nan || refused then 3 else if !beyond then 0 else rung + 1

/-- The quantizer status word (R138). -/
def qzWord (p : QuantParams) (q : QStat) (refused : Bool) : Dword :=
  let beyond := q.beyond p
  BitVec.ofNat 64
    (q.clip + 2 ^ 16 * flag (decide (0 < q.zero)) + 2 ^ 17 * flag (decide (0 < q.allSat)) + 2 ^ 18 * flag q.nanBit +
     2 ^ 19 * flag (decide (0 < q.high + q.low)) + 2 ^ 20 * flag (decide (0 < q.lost)) + 2 ^ 21 * flag beyond +
     2 ^ 22 * qAdvice q.nanBit refused beyond p.rung.toNat + 2 ^ 24 * p.rung.toNat + 2 ^ 26 * flag refused +
     2 ^ 32 * min 65535 q.zero + 2 ^ 48 * min 65535 q.allSat)

/-- The 64 bytes of a statistics record (R136) with `extracted` saffron channels per row; every count saturates. -/
def statsBytes (p : QuantParams) (extracted : Nat) (q : QStat) : List Byte :=
  let sat (n v : Nat) : List Byte := leBytes n (min v (2 ^ (8 * n) - 1))
  leBytes 8 (qzWord p q false).toNat ++ sat 4 q.elements ++ sat 4 q.clipped ++ sat 4 q.groups ++ sat 2 q.high ++
  sat 2 q.low ++ sat 2 q.lost ++ sat 2 q.nan ++ sat 2 extracted ++ leBytes 2 0 ++
  q.hist.flatMap (fun n => sat 2 n)

/-- Counts a quantizing command by its rung in QZ_COUNT (R146). -/
def countRung (p : QuantParams) (s : State) : State :=
  (s.count Off.qzCount 0 (flag (p.rung == 1))).count Off.qzCount 1 (flag (p.rung == 2))

/-- Adds the groups that a quantizing command counts to QZ_COUNT (R146). -/
def countGroups (q : QStat) (s : State) : State :=
  let s := s.count Off.qzCount 2 q.nan
  let s := s.count Off.qzCount 3 q.zero
  let s := s.count Off.qzCount 4 q.allSat
  let s := s.count Off.qzCount 5 q.lost
  s.count Off.qzCount 6 (q.high + q.low)

/-! ### Matrix engine -/

/-- The fields of the matrix status word. -/
structure MxStat where
  oow     : Nat
  nan     : Bool
  inf     : Bool
  chk     : Bool
  two     : Bool
  dropped : Bool
  closed  : Bool
  tooMany : Bool              -- 0x2045 was raised
  terms   : Nat
  deriving DecidableEq, Repr

/-- All clear. -/
def MxStat.empty : MxStat :=
  { oow := 0, nan := false, inf := false, chk := false, two := false, dropped := false, closed := false,
    tooMany := false, terms := 0 }

/-- ADVICE of R186. -/
def mxAdvice (refused : Bool) (m : MxStat) : Nat :=
  if refused || m.dropped || m.tooMany then 3 else if m.oow != 0 && !m.two then 1 else 0

/-- The matrix status word (R185). -/
def mxWord (m : MxStat) (refused : Bool) : Dword :=
  BitVec.ofNat 64
    (min 65535 m.oow + 2 ^ 16 * flag m.nan + 2 ^ 17 * flag m.inf + 2 ^ 18 * flag m.chk + 2 ^ 19 * flag m.two +
     2 ^ 20 * flag m.dropped + 2 ^ 21 * flag m.closed + 2 ^ 22 * mxAdvice refused m + 2 ^ 24 * flag refused +
     2 ^ 32 * min (2 ^ 32 - 1) m.terms)

/-! ### Vector engine -/

/-- What a vector command counts. -/
structure VxStat where
  nan   : Nat
  inf   : Nat
  sat   : Nat
  drawNan   : Nat
  drawEmpty : Nat
  deriving DecidableEq, Repr

/-- Nothing counted. -/
def VxStat.empty : VxStat := { nan := 0, inf := 0, sat := 0, drawNan := 0, drawEmpty := 0 }

/-- The vector status word (R224). -/
def vxWord (v : VxStat) (refused : Bool) : Dword :=
  BitVec.ofNat 64
    (flag (decide (0 < v.nan)) + 2 * flag (decide (0 < v.inf)) + 4 * flag (decide (0 < v.sat)) +
     8 * flag (decide (0 < v.drawNan)) + 16 * flag (decide (0 < v.drawEmpty)) + 32 * flag refused +
     2 ^ 32 * min (2 ^ 32 - 1) v.nan)

/-- Adds a vector command's counts to CMP_VX_COUNT (R227). -/
def countVector (v : VxStat) (s : State) : State :=
  let s := s.count Off.vxCount 0 v.nan
  let s := s.count Off.vxCount 1 v.inf
  let s := s.count Off.vxCount 2 v.sat
  let s := s.count Off.vxCount 3 v.drawNan
  s.count Off.vxCount 4 v.drawEmpty

end Sys2Proof.Machine
end

