-- ==== Sys2Proof/Machine/Layout.lean ====
section
/-! DEFINITION. Layout copies (09): their refusal conditions, the copy that a stream command or the host starts, and
what a read of a remote address gathers. -/

namespace Sys2Proof.Machine

/-! ### Refusal conditions (R346) -/

/-- The layout or format has no meaning, so that no geometry follows from the descriptor. -/
def CopyDesc.senseless (d : CopyDesc) : Bool := decide (3 < d.srcLayout) || decide (3 < d.dstLayout) || decide (5 < d.format)

/-- 0x2070: VERSION, reserved fields (R12, R328), formats of bit planes (R329), padding (R337, R338). -/
def CopyDesc.bad (d : CopyDesc) : Bool :=
  d.senseless || d.version != 1 || d.reservedSet ||
  ((decide (2 ≤ d.srcLayout) || decide (2 ≤ d.dstLayout)) && d.format != 0) ||
  (!d.pad && d.pads.any (fun p => p != 0)) || (d.pad && d.dstLayout != 0)

/-- 0x2014: a destination stride of zero (R332). -/
def CopyDesc.zeroStride (d : CopyDesc) : Bool :=
  [1, 2, 3].any (fun i => decide (i ≤ d.dims) && (d.dstLayout == 0 || decide (2 ≤ i)) && d.dStep i == 0)

/-- First byte of the destination region of a copy with padding, and the first byte beyond it (R339, R474): the declared region of the core window, or the declared stack allocation, that contains DST, else the scratch part, else the stripe of DST. DESIGN CHOICE (log 126): a core memory that declares no region there bounds the copy by itself. -/
def copyBound (d : CopyDesc) (s : State) : Nat × Nat :=
  let n := d.dst.toNat
  match addrOf d.dst with
  | .window c m off =>
    let w := (windowAddr c m 0).toNat
    (match (List.range 64).find? (fun k => match (s.core c).region m k with | some r => decide (r.base ≤ off) && decide (off < r.base + r.size) | none => false) with
     | some k => (match (s.core c).region m k with | some r => (w + r.base, w + r.base + r.size) | none => (w, w + spaceSize m))
     | none => (w, w + spaceSize m))
  | _ =>
    let allocs := match s.program with | some p => p.image.allocations | none => []
    match allocs.find? (fun a => decide (a.1 ≤ n) && decide (n < a.1 + a.2)) with
    | some a => (a.1, a.1 + a.2)
    | none =>
      if s.inScratch n 1 then (s.llr.1 * stripeBytes, (s.llr.1 + s.llr.2.1) * stripeBytes)
      else (n / stripeBytes * stripeBytes, (n / stripeBytes + 1) * stripeBytes)

/-- Do bytes in a core window lie outside the region that their operand names, or does the operand name none (R45, R618); an operand that names a region and lies in no window does, too. -/
def outsideWindow (o : Option RegionOp) (a : Dword) (len : Nat) (s : State) : Bool :=
  match addrOf a, o with
  | .window c m off, some o =>
    (match (s.core c).region o.space o.region with
     | some r => !(m == o.space && decide (r.base ≤ off) && decide (off + len ≤ r.base + r.size))
     | none => true)
  | .window _ _ _, none => true
  | _, some _ => true
  | _, none => false

/-- The refusal codes of a copy that is not a no-operation, each with the address concerned (R619, R328 to R339). `named` says that its operands in core windows name regions, as those of a stream command do. Of a descriptor whose layout or format means nothing, only the first word of each range is known. -/
def copyRefusals (named : Bool) (src dst : Option RegionOp) (d : CopyDesc) (s : State) : List (Code × Dword) :=
  let sp' := if d.senseless then [(0, 4)] else d.srcSpans
  let fp := if d.senseless then [(0, 4)] else d.footprints
  let s0 := d.src.toNat
  let d0 := d.dst.toNat
  let srcCodes := sp'.flatMap (fun x => addrCodes true false (d.src + BitVec.ofNat 64 x.1) x.2 s)
  let dstCodes := fp.flatMap (fun x => addrCodes false true (d.dst + BitVec.ofNat 64 x.1) x.2 s)
  let bound := copyBound d s
  let padBeyond := d.pad && decide (bound.2 < d0 + spanEnd fp)
  let srcOut := named && sp'.any (fun x => outsideWindow src (d.src + BitVec.ofNat 64 x.1) x.2 s)
  let dstOut := named && (if d.pad then outsideWindow dst d.dst 1 s else fp.any (fun x => outsideWindow dst (d.dst + BitVec.ofNat 64 x.1) x.2 s))
  let cacheOut := dstOut && (match dst with | some o => o.space == .oc | none => false)
  (if d.bad then [(0x2070, 0)] else []) ++ (if d.zeroStride then [(0x2014, 0)] else []) ++
  (if s0 % 4 != 0 || d0 % 4 != 0 || overlapping fp then [(0x2071, 0)] else []) ++
  (if decide (s0 < d0 + spanEnd fp) && decide (d0 < s0 + spanEnd sp') then [(0x2073, 0)] else []) ++
  (srcCodes.map (fun x => (x, d.src))) ++ (dstCodes.map (fun x => (x, d.dst))) ++
  (if srcOut || (dstOut && !cacheOut) then [(0x2019, 0)] else []) ++ (if cacheOut then [(0x2053, 0)] else []) ++
  (if padBeyond then [(0x2072, BitVec.ofNat 64 bound.2)] else [])

/-! ### The copy -/

/-- The stack ranges that a copy reads. -/
def CopyDesc.stackReads (d : CopyDesc) : List (Nat × Nat) :=
  match addrOf d.src with
  | .stack n => shiftSpans n d.srcSpans
  | _ => []

/-- Carries a copy out: writes and counts (R329, R330, R347). -/
def copyRun (who : Reporter) (t : Nat) (d : CopyDesc) (rd : Nat → Byte) (store : Bool) (s : State) : State :=
  let ws := if store then d.writes rd else []
  let s := devStoreAll who t d.dst ws s
  (s.count Off.lxCount 0).count Off.lxCount 2 (total (ws.map (fun w => w.2.length)))

/-- Has every byte of a range come. -/
def RemotePart.complete (r : RemotePart) : Bool := decide (r.len ≤ total (r.got.map (fun p => p.2.length)))

/-- A byte of a range. -/
def RemotePart.byte (r : RemotePart) (i : Nat) : Byte :=
  match r.got.find? (fun p => decide (p.1 ≤ i) && decide (i < p.1 + p.2.length)) with
  | some p => nth p.2 (i - p.1) 0
  | none => 0

/-- The byte at a remote address that a read has gathered. -/
def RemoteRead.byteAt (r : RemoteRead) (a : Dword) : Byte :=
  match r.parts.find? (fun p => decide (p.addr.toNat ≤ a.toNat) && decide (a.toNat < p.addr.toNat + p.len)) with
  | some p => p.byte (a.toNat - p.addr.toNat)
  | none => 0

/-- Has every byte of a remote read come. -/
def RemoteRead.complete (r : RemoteRead) : Bool := r.parts.all (fun p => p.complete)

end Sys2Proof.Machine
end

