-- ==== Sys2Proof/Machine/Issue.lean ====
section
/-! DEFINITION. How an engine begins a command: the zero-count rule (R53), every refusal condition (R619), and the
epoch checks of its region operands (R47 to R50). -/

namespace Sys2Proof.Machine

/-- The bytes of the copy descriptor that a layout command points to (R327). -/
def descAt (c : CoreRef) (desc : Loc) (s : State) : BitVec 512 := BitVec.ofNat 512 (fromLe (locBytes c desc 0 64 s))

/-- A quantizing command with the content of its list operand (R108). DESIGN CHOICE (log 122): indices of 4 bytes, little-endian. -/
def loadQuant (c : CoreRef) (q : QuantCmd) (s : State) : QuantCmd :=
  { q with p := { q.p with saffron := match q.saffronList with
      | some o => (List.range q.saffronCount).map (fun i => fromLe ((s.core c).opBytes o (4 * i) 4))
      | none => [] } }

/-! ### Zero counts (R53) -/

/-- Is the check slot for a position void: its command was refused or a no-operation (R378). -/
def voidSample (c : CoreRef) (position : Nat) (s : State) : Bool :=
  match (s.core (neighbour c)).samples.find? (fun x => x.position == position) with
  | some x => !x.valid
  | none => false

/-- Do the counts of a command make it a no-operation (R53, R153, R203, R330); the counts of a copy are those of its descriptor, if that can be read. -/
def isNoop (c : CoreRef) (cmd : EngineCmd) (d : Option CopyDesc) (s : State) : Bool :=
  cmd.palCount == 0 || cmd.repeats == 0 ||
  (match cmd.body with
   | .product p | .saffron p =>
     let a := streamedShape p.a p.transposed
     let b := stationaryShape p.b p.colWise
     a.1 == 0 || max a.2 b.2 == 0 || b.1 == 0
   | .exact p =>
     let a := streamedShape p.a p.transposed
     let b := stationaryShape p.b p.colWise
     a.1 == 0 || max a.2 b.2 == 0 || b.1 == 0
   | .vector v => v.count == 0
   | .checkSlot n => voidSample c n s
   | .quantize q => q.rows == 0 || q.cols == 0
   | .stackRead _ _ _ n => n == 0
   | .stackWrite _ _ _ n => n == 0
   | .copy _ _ n => n == 0
   | .remoteRead _ _ n => n == 0
   | .layout _ _ _ => (match d with | some d => d.zero | none => false)
   | .invalidate => false
   | .post => false)

/-! ### Refusal conditions -/

/-- Codes with the address to record. -/
abbrev Refusals := List (Code × Dword)

/-- One code when a condition holds. -/
def when (b : Bool) (c : Code) : Refusals := if b then [(c, 0)] else []

/-- A Pepper stream of the wrong purpose (R625), and a block number beyond 2^40 − 1 (R341) for a last index of `last` at `per` elements a block. -/
def streamCodes (used : Bool) (stream : BitVec 24) (per last : Nat) : Refusals :=
  if used then when (reservedPurpose stream) 0x2079 ++ when (decide (2 ^ 40 ≤ last / per)) 0x2078 else []

/-- Is a list strictly ascending. -/
def ascending : List Nat → Bool
  | a :: b :: r => decide (a < b) && ascending (b :: r)
  | _ => true

/-- Is the output split-wide. -/
def splitOut (q : QOut) : Bool := decide (1 < qoutPieces q)

/-- Refusals of a quantizing command's parameters, the content of its list operand among them (R56, R109, R112, R147). -/
def quantRefusals (q : QuantCmd) : Refusals :=
  let p := q.p
  when (decide (64 < p.saffron.length) || !ascending p.saffron || p.saffron.any (fun i => decide (q.rowLen ≤ i))) 0x2031 ++
  when (p.rowScale == .dynamic && decide (16384 < q.cols)) 0x2032 ++
  when ((p.scaleFmt == .ue4m3 && p.rowScale == .none) || (splitOut p.out && (p.scaleFmt == .ue4m3 || p.rowScale != .none)) ||
    (p.rowScale == .dynamic && p.scaleFmt == .e8m0) || (p.rot != 0 && q.rowLen % p.rot != 0) ||
    q.firstIdx % max (max p.rot p.group) 1 != 0) 0x2033 ++
  when ((q.elemDst.isSome && ((splitOut p.out && q.pieceGap == 0) || (q.layout.val == 0 && q.elemStride == 0))) ||
    (q.scaleDst.isSome && q.scaleLayout.val == 0 && q.scaleStride == 0)) 0x2014 ++
  streamCodes (p.round == .sr && !splitOut p.out) p.roundStream 32 (q.index0 + (q.rows - 1) * q.indexRow + (q.cols - 1) * q.indexCol) ++
  streamCodes (p.rot != 0) p.rotStream 512 (q.firstIdx + (q.cols - 1))

/-- Element format, pieces, group, scale format, rotation, row scales and saffron count of a matrix operand as it enters the array. -/
def operandForm : MatOperand → (Fmt × Nat) × (Nat × ScaleFmt) × (Nat × BitVec 24) × (Bool × Nat)
  | .narrow t => ((t.fmt, t.pieces), (t.group, t.scaleFmt), (t.rot, t.rotStream), (t.rowScales.isSome, 0))
  | .wide q => ((qoutFmt q.p.out, qoutPieces q.p.out), (q.p.group, q.p.scaleFmt), (q.p.rot, q.p.rotStream),
                (q.p.rowScale != .none, q.saffronCount))

/-- The pairs of R151, in either order. -/
def pairAllowed (a b : Fmt) : Bool :=
  let ok (x y : Fmt) : Bool :=
    (x == .fp4 && y == .fp4) || (x == .e4m3 && y == .fp4) || (x == .e5m2 && y == .fp4) || (x == .e4m3 && y == .e4m3)
  ok a b || ok b a

/-- Terms (j, k) of a split-wide product in ascending order of j, then k (R97, R176): all of them, or with the drop flag those of R97. -/
def splitTerms (pa pb : Nat) (drop : Bool) : List (Nat × Nat) :=
  (List.range pa).flatMap (fun j => ((List.range pb).filter (fun k => !drop || decide (j + k < max pa pb))).map (fun k => (j, k)))

/-- 0x2043 for a pair of operands (R121, R152), and for a split-wide one that is not E4M3 or has UE4M3 or row scales (R92). -/
def pairCodes (a b : MatOperand) : Bool :=
  let x := operandForm a
  let y := operandForm b
  let splitBad (f : (Fmt × Nat) × (Nat × ScaleFmt) × (Nat × BitVec 24) × (Bool × Nat)) : Bool :=
    decide (1 < f.1.2) && (f.1.1 != .e4m3 || f.2.1.2 != .e8m0 || f.2.2.2.1)
  !pairAllowed x.1.1 y.1.1 || x.2.1.1 != y.2.1.1 || x.2.2.1.1 != y.2.2.1.1 ||
  (x.2.2.1.1 != 0 && x.2.2.1.2 != y.2.2.1.2) || splitBad x || splitBad y

/-- May a column-wise load read a stored tensor: each sub-block is a block of a blocked layout, or its rows hold exactly 256 elements and lie without gaps (R172, R173). -/
def subBlocks (t : NarrowTensor) : Bool :=
  let cols := match t.half with | some _ => (t.storedCols + 1) / 2 | none => t.storedCols
  t.layout == 1 || t.layout == 3 || (cols == 256 && (t.layout == 2 || t.stride == packedBytes (fmtWidth t.fmt) 256))

/-- 0x2044: a column-wise load from a source whose sub-blocks are not contiguous (R173), or a transposed streamed read of anything but a blocked layout (R175). -/
def orientCodes (m : MatOperand) (turned stationary : Bool) : Bool :=
  turned && (match m with
    | .narrow t => !(if stationary then subBlocks t else t.layout == 1 || t.layout == 3)
    | .wide q => !(stationary && q.cols == 256 && q.stride == packedBytes (fmtWidth q.srcFmt) 256))

/-- Refusals of the quantizer paths that the wide operands of a matrix command use, and of the rotation stream that a stored operand names (R625). -/
def wideCodes (c : CoreRef) (m : MatOperand) (s : State) : Refusals :=
  match m with
  | .narrow t => when (t.rot != 0 && reservedPurpose t.rotStream) 0x2079
  | .wide q => quantRefusals (loadQuant c q s)

/-- A packing that its operands do not allow (R177, R178); a saffron side pass spreads its bands over passes (R179). -/
def packBad (a b : MatOperand) (x y : Nat × Nat) (packing : Packing) (drop sidePass : Bool) : Bool :=
  let pa := (operandForm a).1.2
  let pb := (operandForm b).1.2
  let g := (operandForm a).2.1.1
  let n := (splitTerms pa pb drop).length
  (packing == .bands && !sidePass && decide (1 < n) && (decide (256 < n * g) || decide (1 < groupsOf (max x.2 y.2) g))) ||
  (packing == .columns && decide (1 < pb) && decide (256 < y.1 * pb))

/-- Refusals of a narrow-promotion command (R152, R173, R175 to R179). -/
def productRefusals (c : CoreRef) (p : ProductCmd) (sidePass : Bool) (s : State) : Refusals :=
  let a := streamedShape p.a p.transposed
  let b := stationaryShape p.b p.colWise
  when (pairCodes p.a p.b || packBad p.a p.b a b p.packing p.drop sidePass) 0x2043 ++
  when (orientCodes p.b p.colWise true || orientCodes p.a p.transposed false) 0x2044 ++
  when (p.dstStride == 0) 0x2014 ++ wideCodes c p.a s ++ wideCodes c p.b s

/-- Is a block open on a long-register region (R162). -/
def CoreSt.block (k : CoreSt) (o : RegionOp) : Option ExactBlock := k.blocks.find? (fun b => b.region == regionKey o.space o.region)

/-- Refusals of an exact-mode command (R159, R162, R169, R177, R178). -/
def exactRefusals (c : CoreRef) (p : ExactCmd) (s : State) : Refusals :=
  let x := operandForm p.a
  let y := operandForm p.b
  let bad (f : (Fmt × Nat) × (Nat × ScaleFmt) × (Nat × BitVec 24) × (Bool × Nat)) : Bool :=
    f.2.1.2 != .e8m0 || f.2.2.2.1 || f.2.2.1.1 != 0 || f.2.2.2.2 != 0
  let k := s.core c
  let need := p.blockRows * 256 * (if p.twoWindow then 64 else 32)
  when (pairCodes p.a p.b || bad x || bad y ||
    packBad p.a p.b (streamedShape p.a p.transposed) (stationaryShape p.b p.colWise) p.packing p.drop false) 0x2043 ++
  when (orientCodes p.b p.colWise true || orientCodes p.a p.transposed false) 0x2044 ++
  when (p.opens && decide (k.regionSize p.lr < p.lr.offset + need)) 0x2046 ++
  when (!p.opens && (k.block p.lr).isNone) 0x2047 ++
  when (p.closes && p.dstStride == 0) 0x2014 ++ wideCodes c p.a s ++ wideCodes c p.b s

/-- Is a source format one of R198 (the accumulator file supplies FP32 only). -/
def sourceFmtOk (v : VStream) : Bool := v.fmt != .u32 && (v.op.space != .acc || v.fmt == .fp32)

/-- Does a vector command round its results with Pepper bits (R205). -/
def roundsSr (v : VectorCmd) : Bool := v.round == .sr && rowResultBytes v.vop == 0 && v.dst.fmt != .fp32 && v.dst.fmt != .u32

/-- Pepper use of a vector command: the draw stream (R219) and the rounding stream (R205), with the last logical index that takes bits of each. -/
def vectorStreams (v : VectorCmd) (rows : Nat) : Refusals :=
  let row := v.index0 + (rows - 1) * v.indexRow
  (match v.vop with
   | .draw _ stream _ _ => streamCodes true stream 16 (row + (v.count - 1))
   | _ => []) ++
  streamCodes (roundsSr v) v.roundStream 32 (row + (outCount v - 1))

/-- Refusals of a vector command (R56, R196, R199, R203, R214, R215). -/
def vectorRefusals (c : CoreRef) (v : VectorCmd) (rows : Nat) (s : State) : Refusals :=
  let k := s.core c
  let drawBad := match v.vop with
    | .draw _ _ _ _ => v.srcs.any (fun x => x.fmt != .fp32 && x.fmt != .bf16)
    | _ => false
  let tableBad := match tableOf v.vop with
    | some (t, _) => t.space != .oc || k.opBase t % 16384 != 0 || decide (k.regionSize t < t.offset + 16384)
    | none => false
  let baseBad := match tableOf v.vop with
    | some (_, b) => decide (b < -126) || decide (66 < b)
    | none => false
  when (v.srcs.any (fun x => decide (1 < x.stride) || !sourceFmtOk x) || decide (1 < v.dst.stride) || v.dst.fmt == .fp4 ||
    (v.dst.fmt == .u32 && rowResultBytes v.vop == 0) || drawBad || baseBad) 0x2051 ++
  when tableBad 0x2050 ++
  when (v.dst.rowStride == 0 || v.dst.stride == 0) 0x2014 ++ vectorStreams v rows

/-- The accesses whose extents and addresses are checked as they are named; those of a copy are checked by its own rules. -/
def checkedAccesses (cmd : EngineCmd) (d : CopyDesc) : List Access :=
  match cmd.body with
  | .layout _ _ _ => (bodyAccesses cmd d).take 1
  | _ => bodyAccesses cmd d

/-- Does an access reach outside the region that it names, and would an operand cache receive it (R45, R208, R618). DESIGN CHOICE (log 124): an id that the image did not declare names no bytes. -/
def extentOf (c : CoreRef) (a : Access) (s : State) : Option Bool :=
  match a.loc with
  | .region o =>
    if (s.core c).regionSize o < o.offset + a.len || ((s.core c).region o.space o.region).isNone then some (a.write && o.space == .oc) else none
  | .stack x =>
    match addrOf x with
    | .window _ m _ => if decide (0 < a.len) && outsideWindow a.win x a.len s then some (a.write && m == .oc) else none
    | _ => none

/-- Extent checks of operands in core-local memories (R618): 0x2053 for what an operand cache would receive beyond its region (R208), 0x2019 otherwise. -/
def extentCodes (c : CoreRef) (cmd : EngineCmd) (d : CopyDesc) (s : State) : Refusals :=
  let r := (checkedAccesses cmd d).filterMap (fun a => extentOf c a s)
  when (r.any (fun b => !b)) 0x2019 ++ when (r.any (fun b => b)) 0x2053

/-- Address checks of operands named by device address (R274 to R276, R297); stream commands may read remote addresses (R275), but a copy descriptor lies in the scratchpad or the stacks (R327). -/
def addressCodes (cmd : EngineCmd) (d : CopyDesc) (s : State) : Refusals :=
  let remoteOk := match cmd.body with
    | .stackRead _ _ _ _ => true
    | .remoteRead _ _ _ => true
    | _ => false
  (checkedAccesses cmd d).flatMap (fun a =>
    match a.loc with
    | .stack x => a.spans.flatMap (fun p => (addrCodes remoteOk a.write (x + BitVec.ofNat 64 p.1) p.2 s).map (fun k => (k, x + BitVec.ofNat 64 p.1)))
    | .region _ => [])

/-- Can the copy descriptor of a layout command be read. -/
def descReadable (c : CoreRef) (cmd : EngineCmd) (s : State) : Bool :=
  (extentCodes c cmd (copyDesc 0) s).isEmpty && (addressCodes cmd (copyDesc 0) s).isEmpty

/-- Refusals that belong to the body of a command. -/
def bodyRefusals (c : CoreRef) (cmd : EngineCmd) (d : Option CopyDesc) (s : State) : Refusals :=
  match cmd.body with
  | .product p => productRefusals c p false s
  | .saffron p => productRefusals c p true s
  | .exact p => exactRefusals c p s
  | .vector v => vectorRefusals c v cmd.repeats s
  | .quantize q => quantRefusals (loadQuant c q s)
  | .layout _ src dst => (match d with | some d => copyRefusals true src dst d s | none => [])
  | _ => []

/-- Every refusal condition of a command that holds (R37, R619). -/
def refusals (c : CoreRef) (cmd : EngineCmd) (d : Option CopyDesc) (s : State) : Refusals :=
  let k := d.getD (copyDesc 0)
  when (decide (4096 < cmd.palStart + cmd.palCount)) 0x2015 ++ extentCodes c cmd k s ++ addressCodes cmd k s ++ bodyRefusals c cmd d s

/-! ### Epoch checks -/

/-- What the checks of a command decide. -/
structure Checked where
  s          : State
  suppressed : List Nat
  badReads   : List Nat
  seen       : List (Nat × Bool × BitVec 16)

/-- Does a command use a quantizer path, so that it raises each code once (R134). -/
def quantizes (cmd : EngineCmd) : Bool :=
  let wide (m : MatOperand) : Bool := match m with | .wide _ => true | .narrow _ => false
  match cmd.body with
  | .product p => wide p.a || wide p.b
  | .exact p => wide p.a || wide p.b
  | .quantize _ => true
  | _ => false

/-- Raises the record of an epoch check, or of a release mark whose check failed: once per region, or once per command where R134 holds. -/
def raiseCheck (c : CoreRef) (e : Engine) (cmd : EngineCmd) (tag : Tag) (code : Code) (addr : Dword) (s : State) : State :=
  if quantizes cmd then raiseFor c e { code := code, unit := 0, addr := addr } s
  else raise { code := code, unit := s.coreUnit c, tag := tag, epoch := (s.core c).placeEpoch, addr := addr } s

/-- Checks the region that operand `n` of a command names (R47 to R50): operands that name one region with one epoch, all read or all written, are one check. The writer that comes to own an epoch is known by core and engine, wherever the region lies (R49). -/
def checkOperand (c : CoreRef) (e : Engine) (cmd : EngineCmd) (l : List Access) (tag : Tag) (x : Checked) (n : Nat) : Checked :=
  let a := nth l n accNone
  match a.named c with
  | none => x
  | some (k, o, write) =>
    match (x.s.core k).region o.space o.region with
    | none => x
    | some r =>
      let key := coreRegion k o.space o.region
      let first := !x.seen.contains (key, write, o.epoch)
      let x := { x with seen := x.seen ++ [(key, write, o.epoch)] }
      let note (code : Code) : State := if first then raiseCheck c e cmd tag code (a.first c x.s) x.s else x.s
      if write then
        if o.epoch != r.epoch then { x with s := note 0x2010, suppressed := x.suppressed ++ [key] }
        else match r.owner with
          | none => { x with s := x.s.modCore k (fun v => v.setRegion o.space o.region { r with owner := some (.core c e) }) }
          | some w => if w == .core c e then x else { x with s := note 0x2013, suppressed := x.suppressed ++ [key] }
      else if o.epoch != r.epoch then { x with s := note 0x2011, badReads := x.badReads ++ [n] }
      else x

/-- Checks every region that a command's operands name once, in the order of its operands, as the command begins (R47; log 123). -/
def checkEpochs (c : CoreRef) (e : Engine) (cmd : EngineCmd) (l : List Access) (tag : Tag) (s : State) : Checked :=
  (List.range l.length).foldl (checkOperand c e cmd l tag) { s := s, suppressed := [], badReads := [], seen := [] }

/-! ### Beginning -/

/-- What the status word of an exact command says of its block while it adds nothing. -/
def blockStat (c : CoreRef) (p : ExactCmd) (s : State) : MxStat :=
  match (s.core c).block p.lr with
  | some b => { MxStat.empty with oow := b.oow, two := b.two, dropped := b.dropped, closed := p.closes, terms := b.terms.foldl (fun m x => max m x.2) 0 }
  | none => { MxStat.empty with two := p.twoWindow, closed := p.closes }

/-- Status word that a refused or no-operation command leaves: of its engine, and of the quantizer path it names. DESIGN CHOICE (log 127): of two wide operands the path shows the streamed one. -/
def idleStatus (c : CoreRef) (cmd : EngineCmd) (refused : Bool) (s : State) : Dword × Option Dword :=
  let wide (m : MatOperand) : Option Dword := match m with | .wide q => some (qzWord q.p .empty refused) | .narrow _ => none
  let both (a b : MatOperand) : Option Dword := match wide a with | some w => some w | none => wide b
  match cmd.body with
  | .product p => (mxWord .empty refused, both p.a p.b)
  | .saffron p => (mxWord .empty refused, both p.a p.b)
  | .exact p => (mxWord (blockStat c p s) refused, both p.a p.b)
  | .vector _ => (vxWord .empty refused, none)
  | .quantize q => (0, some (qzWord q.p .empty refused))
  | _ => (0, none)

/-- Opens an exact block when its open command begins (R162). -/
def openBlock (c : CoreRef) (cmd : EngineCmd) (s : State) : State :=
  match cmd.body with
  | .exact p =>
    if p.opens then
      let key := regionKey p.lr.space p.lr.region
      let b : ExactBlock := { region := key, anchor := p.anchor, two := p.twoWindow, oow := 0, dropped := false, terms := [] }
      (s.modCore c (fun k => { k with blocks := k.blocks.filter (fun x => x.region != key) ++ [b] })).count Off.mxCount 2
        (flag p.twoWindow)
    else s
  | _ => s

/-- An engine that carries out nothing for these bodies: a post, and a check slot or copy that was refused, are done at once. -/
def doneAtOnce (cmd : EngineCmd) : Bool := match cmd.body with | .post => true | _ => false

/-- Notes for its check slot that a vector command was refused or a no-operation (R378). -/
def voidVector (c : CoreRef) (q : QCmd) (s : State) : State :=
  match q.cmd.body with
  | .vector _ => s.modCore c (fun k => { k with samples := k.samples ++
      [{ position := q.vpos, written := [], clean := [], phys := bits (s.coreUnit c) 0 10, valid := false, injected := false, extra := false }] })
  | _ => s

/-- The effects of fetching a layout command's copy descriptor. -/
def fetchDesc (c : CoreRef) (e : Engine) (cmd : EngineCmd) (s : State) : State :=
  match cmd.body with
  | .layout _ _ _ =>
    let l := ((bodyAccesses cmd (copyDesc 0)).take 1).map (fun a => { a with reads := true })
    commandReadEffects c e l [] (injectStack c.tile.val (stackReads l) (injectReads c e l s))
  | _ => s

/-- The copy descriptor of a command, if it has one that can be read. -/
def descOf (c : CoreRef) (cmd : EngineCmd) (s : State) : Option (BitVec 512) :=
  match cmd.body with
  | .layout desc _ _ => if descReadable c cmd s then some (descAt c desc s) else none
  | _ => none

/-- Begins a command whose waits are taken: a no-operation checks nothing (R54), a refused command raises each of its codes once (R619), any other command has its operands checked. -/
def beginCmd (c : CoreRef) (e : Engine) (q : QCmd) (s : State) : State :=
  let raw := descOf c q.cmd s
  let d := raw.map copyDesc
  let noop := isNoop c q.cmd d s
  let codes := if noop then [] else refusals c q.cmd d s
  let refused := !codes.isEmpty
  let st := idleStatus c q.cmd refused s
  let run : Running :=
    { q := q, noop := noop, refused := refused, hazard := false, suppressed := [], badReads := [], begun := s.now,
      done := noop || refused || doneAtOnce q.cmd, released := [], status := st.1, quant := st.2, raised := [], checks := bits (s.act Off.mxCtl) 0 2,
      copy := raw.getD 0 }
  let s := s.modCore c (fun k => k.setRun e (some run))
  let s := if raw.isSome then fetchDesc c e q.cmd s else s
  let copy := match q.cmd.body with | .layout _ _ _ => true | _ => false
  let s := if noop || refused then voidVector c q s else s
  if noop then (if copy then s.count Off.lxCount 0 else s)
  else if refused then
    let s := codes.foldl (fun s x => raiseFor c e { code := x.1, unit := 0, addr := x.2 } s) s
    if copy then s.count Off.lxCount 1 else s
  else
    let x := checkEpochs c e q.cmd run.accesses q.tag s
    openBlock c q.cmd (modRun c e (fun r =>
      { r with hazard := !x.suppressed.isEmpty || !x.badReads.isEmpty, suppressed := x.suppressed, badReads := x.badReads }) x.s)

end Sys2Proof.Machine
end

