-- ==== Sys2Proof/Machine/Quant.lean ====
section
/-! DEFINITION. The quantizer (04): the order of operations of R110 on one row, a slice of rows on either path, and the
write-path command. -/

namespace Sys2Proof.Machine

/-! ### Scale selection (R123 to R126) -/

/-- Q: the largest finite magnitude of an output element (piece 0 of a split-wide one). -/
def qMax : QOut → Nat
  | .fp4 => 6
  | .e4m3 => 448
  | .e5m2 => 57344
  | .sw2 => 448
  | .sw3 => 448

/-- Magnitude of a finite value as a fraction; 0 otherwise. -/
def magFrac : Val → Nat × Nat
  | .num _ m e => scaleFrac m 1 e
  | _ => (0, 1)

/-- The quotient of two magnitudes as a fraction; the divisor is not zero. -/
def fracDiv (a b : Nat × Nat) : Nat × Nat := (a.1 * b.2, a.2 * b.1)

/-- a ≤ b of two fractions. -/
def fracLe (a b : Nat × Nat) : Bool := decide (a.1 * b.2 ≤ b.1 * a.2)

/-- a < b of two fractions. -/
def fracLt (a b : Nat × Nat) : Bool := decide (a.1 * b.2 < b.1 * a.2)

/-- The larger of two fractions. -/
def fracMax (a b : Nat × Nat) : Nat × Nat := if fracLe a b then b else a

/-- The smallest integer e with 2^e at or above a positive fraction. -/
def ceilLog2 (a : Nat × Nat) : Int :=
  let l := floorLog2 a.1 a.2
  if fracLe a (scaleFrac 1 1 l) then l else l + 1

/-- Code of an E8M0 scale for group maximum `m` beneath row scale `r` (R124). -/
def e8m0For (q : Nat) (r m : Nat × Nat) : Nat :=
  if m.1 = 0 then 1
  else
    let e := ceilLog2 (fracDiv m (q * r.1, r.2))
    (max (-126) (min 127 e) + 127).toNat

/-- Code of a UE4M3 scale (R125). -/
def ue4m3For (q : Nat) (r m : Nat × Nat) : Nat :=
  match ((List.range 126).map (· + 1)).find? (fun c =>
    let s := magFrac (Grid.e4m3.decode c)
    fracLe m (q * s.1 * r.1, s.2 * r.2)) with
  | some c => c
  | none => 0x7E

/-- Code of the group scale that a quantizer selects. -/
def scaleFor (f : ScaleFmt) (q : Nat) (r m : Nat × Nat) : Nat :=
  match f with
  | .e8m0 => e8m0For q r m
  | .ue4m3 => ue4m3For q r m

/-- Magnitude of a scale code that is neither zero group nor NaN. -/
def scaleFrac8 (f : ScaleFmt) (c : Nat) : Nat × Nat :=
  match scaleMeaning f (BitVec.ofNat 8 c) with
  | .scale v => magFrac v
  | _ => (1, 1)

/-- A dynamic row scale: the smallest positive normal FP32 value r with Q × 448 × r ≥ M (R123). -/
def dynamicRow (q : Nat) (m : Nat × Nat) : Word :=
  if m.1 = 0 then one32
  else
    let c := max (Grid.fp32.roundMag .rz 0 m.1 (m.2 * q * 448)) 0x800000
    let v := magFrac (Grid.fp32.decode c)
    BitVec.ofNat 32 (if fracLe m (q * 448 * v.1, v.2) then c else c + 1)

/-! ### Rotation (R119 to R122) -/

/-- Exponent h of R120. -/
def rotH (n : Nat) : Nat := (Nat.log2 n + 1) / 2

/-- Stage `s` of the transform on one block. -/
def hadamardStage (st : Nat) (v : List Word) : List Word :=
  (List.range v.length).map (fun j =>
    if j.testBit st then fsub (nth v (j - 2 ^ st) 0) (nth v j 0) else fadd (nth v j 0) (nth v (j + 2 ^ st) 0))

/-- The stages 0 to k − 1, with whether any value of any stage is special. -/
def hadamard (k : Nat) (v : List Word) : List Word × Bool :=
  (List.range k).foldl (fun x st =>
    let w := hadamardStage st x.1
    (w, x.2 || w.any (fun a => (f32 a).special))) (v, false)

/-- Rotates one block of n elements whose signs are `neg`: the results, and whether the block is to be marked (R120). -/
def rotateBlock (n : Nat) (neg : List Bool) (v : List Word) : List Word × Bool :=
  let signed := (v.zip neg).map (fun x => if x.2 then x.1 ^^^ 0x80000000#32 else x.1)
  let t := hadamard (Nat.log2 n) signed
  let out := t.1.map (fun a => toF32 ((f32 a).mul (.pow2 (-(rotH n : Int)))))
  (out, t.2 || out.any (fun a => (f32 a).special))

/-! ### One row (R110) -/

/-- One encoded group: codes by element then piece, its scale code, and what it counts. -/
structure QGroup where
  codes : List (List Nat)
  scale : Nat
  stat  : QStat

/-- Codes of an element x / (s × r) in the output format (R94, R129). -/
def encodeElement (out : QOut) (round : Rounding) (u : Nat) (sr : Nat × Nat) (x : Word) : List Nat :=
  let f := fracDiv (magFrac (f32 x)) sr
  if splitOut out then splitPieces (qoutPieces out) (f32 x).neg f.1 f.2
  else [(grid (qoutFmt out)).fracCode round u (f32 x).neg f.1 f.2]

/-- A NaN group (R133). -/
def nanGroup (p : QuantParams) (n : Nat) : QGroup :=
  { codes := List.replicate n (List.replicate (qoutPieces p.out) 0), scale := if p.scaleFmt == .e8m0 then 0xFF else 0x7F,
    stat := { QStat.empty with groups := 1, nan := 1 } }

/-- Scales and encodes one group (R124 to R132); `us` are the Pepper values of its elements. -/
def encodeGroup (p : QuantParams) (r : Nat × Nat) (xs : List Word) (us : List Nat) : QGroup :=
  let q := qMax p.out
  let m := xs.foldl (fun m x => fracMax m (magFrac (f32 x))) (0, 1)
  let c := scaleFor p.scaleFmt q r m
  let s := scaleFrac8 p.scaleFmt c
  let sr := (s.1 * r.1, s.2 * r.2)
  let codes := (xs.zip us).map (fun x => encodeElement p.out p.round x.2 sr x.1)
  let ratio := fracDiv m sr
  let clipped := xs.filter (fun x => fracLt (q, 1) (fracDiv (magFrac (f32 x)) sr))
  let nonzero := xs.filter (fun x => !(f32 x).isZero)
  let zero := codes.all (fun l => l.all (· == 0))
  let e := floorLog2 sr.1 sr.2
  let bin := min 15 (max 0 ((e + 32) / 4)).toNat
  let stat : QStat :=
    { elements := 0, clipped := clipped.length, groups := 1, high := flag (fracLt (q, 1) ratio),
      low := flag (m.1 != 0 && fracLt ratio (q, 2)), lost := flag (zero && !nonzero.isEmpty), nan := 0, zero := flag zero,
      allSat := flag (!clipped.isEmpty && nonzero.length == clipped.length), nanRow := false,
      hist := (List.range 16).map (fun i => flag (!zero && i == bin)) }
  { codes := codes, scale := if zero then 0 else c, stat := stat }

/-- Adds counts. -/
def QStat.add (a b : QStat) : QStat :=
  { elements := a.elements + b.elements, clipped := a.clipped + b.clipped, groups := a.groups + b.groups, high := a.high + b.high,
    low := a.low + b.low, lost := a.lost + b.lost, nan := a.nan + b.nan, zero := a.zero + b.zero, allSat := a.allSat + b.allSat,
    nanRow := a.nanRow || b.nanRow, hist := (a.hist.zip b.hist).map (fun x => x.1 + x.2) }

/-- A quantized row. -/
structure QRow where
  codes   : List (List Nat)           -- by element (extension left out), then piece
  scales  : List Nat
  row     : Word                      -- row scale used; 1.0 with none, the canonical NaN for a NaN (R88)
  saffron : List (List Nat)           -- 64 entries, then piece
  safScale : Nat
  stat    : QStat
  nanAt   : Option Nat                -- position of the first NaN or infinite input, else of the first block that the rotation spoils (R133)
  badRow  : Option Code               -- 0x2030 or 0x2021 of a supplied row scale (R123)

/-- Saffron entries of a row: the values at the listed indices that lie in the shard (R114). -/
def saffronEntries (p : QuantParams) (firstIdx : Nat) (xs : List Word) : List Word :=
  (List.range 64).map (fun j =>
    match p.saffron[j]? with
    | some i => if firstIdx ≤ i ∧ i < firstIdx + xs.length then nth xs (i - firstIdx) 0 else 0
    | none => 0)

/-- A saffron block: entry codes by piece, scale code, and whether it is a NaN group (R115, R116). A quantizer rounds it to nearest even; `us` are the Pepper values of an update unit's (R98). -/
def saffronBlock (p : QuantParams) (round : Rounding) (us : List Nat) (es : List Word) : List (List Nat) × Nat × Bool :=
  let n := qoutPieces p.saffronOut
  if es.any (fun x => (f32 x).special) then (List.replicate 64 (List.replicate n 0), 0xFF, true)
  else
    let m := es.foldl (fun m x => fracMax m (magFrac (f32 x))) (0, 1)
    let c := e8m0For 448 (1, 1) m
    let s := scaleFrac8 .e8m0 c
    let codes := (es.zip us).map (fun x => encodeElement (if n = 1 then .e4m3 else p.saffronOut) round x.2 s x.1)
    if codes.all (fun l => l.all (· == 0)) then (codes, 0, false) else (codes, c, false)

/-- Quantizes one row in the order of R110: `neg i` is the rotation sign and `u i` the Pepper value of position i; `safRound` and `safU` round the saffron block. -/
def quantRow (p : QuantParams) (safRound : Rounding) (safU : Nat → Nat) (firstIdx : Nat) (supplied : Option Word) (neg : Nat → Bool) (u : Nat → Nat) (xs : List Word) : QRow :=
  let n := xs.length
  -- 3: saffron
  let es := saffronEntries p firstIdx xs
  let saf := saffronBlock p safRound ((List.range 64).map safU) es
  let inSaffron (i : Nat) : Bool := p.saffron.contains (firstIdx + i)
  let xs' := (List.range n).map (fun i => if inSaffron i then 0 else nth xs i 0)
  -- 4 and 5: marks and rotation, by blocks; a NaN or infinite input comes before what a rotation produces
  let b := if p.rot = 0 then p.group else p.rot
  let nb := if b = 0 then 0 else (n + b - 1) / b
  let blocks : List (List Word × Bool × Option Nat) := (List.range nb).map (fun k =>
    let v := (xs'.drop (b * k)).take b
    let full := v ++ List.replicate (b - v.length) 0
    if full.any (fun x => (f32 x).special) then (full, true, none)
    else if p.rot = 0 then (full, false, none)
    else
      let t := rotateBlock p.rot ((List.range b).map (fun i => neg (b * k + i))) full
      (t.1, t.2, if t.2 then some (b * k) else none))
  -- 6: extension to a multiple of g
  let flat := blocks.flatMap (fun x => x.1)
  let marks := blocks.map (fun x => x.2.1)
  let g := max p.group 1
  let ng := (n + g - 1) / g
  let group (k : Nat) : List Word := (List.range g).map (fun i => nth flat (g * k + i) 0)
  let marked (k : Nat) : Bool := (List.range nb).any (fun j => nth marks j false && decide (b * j < g * (k + 1)) && decide (g * k < b * (j + 1)))
  -- 7: row scale
  let bad : Option Code := match p.rowScale, supplied with
    | .supplied, some w => if isNan w then some 0x2030 else if rowScaleInvalid w then some 0x2021 else none
    | _, _ => none
  let big := (List.range ng).foldl (fun m k => if marked k then m else (group k).foldl (fun m x => fracMax m (magFrac (f32 x))) m) (0, 1)
  let row : Word := match p.rowScale with
    | .none => one32
    | .dynamic => dynamicRow (qMax p.out) big
    | .supplied => let w := supplied.getD one32; if isNan w then nan32 else w
  let r := magFrac (f32 row)
  -- 8 and 9
  let groups := (List.range ng).map (fun k =>
    if bad.isSome || marked k then nanGroup p g
    else encodeGroup p r (group k) ((List.range g).map (fun i => u (g * k + i))))
  -- 10 and 11
  let base : QStat := { QStat.empty with elements := n, nan := flag saf.2.2, nanRow := bad.isSome }
  let blkAt := (blocks.findSome? (fun x => x.2.2)).map (fun i => min i (n - 1))
  { codes := (groups.flatMap (fun x => x.codes)).take n, scales := groups.map (fun x => x.scale), row := row,
    saffron := saf.1, safScale := saf.2.1, stat := groups.foldl (fun a x => a.add x.stat) base,
    nanAt := (match xs.findIdx? (fun x => (f32 x).special) with | some i => some i | none => blkAt),
    badRow := bad }

/-! ### A slice -/

/-- FP32 value of a wide element (R79, R107). -/
def wideWord (f : Fmt) (bs : List Byte) : Word :=
  if f == .bf16 then BitVec.ofNat 32 (fromLe bs * 65536) else BitVec.ofNat 32 (fromLe bs)

/-- Offset of element (i, j) of a wide source: its rows run along the reduction axis, or down it where the source is `turned` (R107, R172). DESIGN CHOICE (log 154): elements are contiguous along the stored row. -/
def sourceAt (q : QuantCmd) (i j : Nat) : Nat :=
  let w := fmtWidth q.srcFmt / 8
  if q.turned then j * q.stride + i * w else i * q.stride + j * w

/-- The input row `i` of a quantizing command; what lies outside the stored extent is zero (R336). -/
def quantInput (c : CoreRef) (q : QuantCmd) (i : Nat) (s : State) : List Word :=
  let x := sourceExtent q
  (List.range q.cols).map (fun j =>
    if i < x.1 ∧ j < x.2 then wideWord q.srcFmt ((s.core c).opBytes q.src (sourceAt q i j) (fmtWidth q.srcFmt / 8)) else 0)

/-- Supplied row scale of row `i`. -/
def suppliedRow (c : CoreRef) (q : QuantCmd) (i : Nat) (s : State) : Option Word :=
  q.rowScale.map (fun o => BitVec.ofNat 32 (fromLe ((s.core c).opBytes o (4 * i) 4)))

/-- Logical index of element (i, j) of a slice (R343). -/
def quantIndex (q : QuantCmd) (i j : Nat) : Nat := q.index0 + i * q.indexRow + j * q.indexCol

/-- The quantized row `i`. -/
def quantRowAt (c : CoreRef) (q : QuantCmd) (i : Nat) (s : State) : QRow :=
  quantRow q.p .rne (fun _ => 0) q.firstIdx (suppliedRow c q i s)
    (fun j => s.pepper q.p.rotStream 1 (q.firstIdx + j) == 1)
    (fun j => if q.p.round == .sr then s.pepper q.p.roundStream 16 (quantIndex q i j) else 0)
    (quantInput c q i s)

/-- All rows of a slice. -/
def quantRows (c : CoreRef) (q : QuantCmd) (s : State) : List QRow := (List.range q.rows).map (fun i => quantRowAt c q i s)

/-- Counts of a slice. -/
def sliceStat (rows : List QRow) : QStat := rows.foldl (fun a r => a.add r.stat) .empty

/-- Pepper draws of a slice, row after row: rotation signs (R119), then rounding (R102, R103). -/
def quantDraws (unit : Nat) (q : QuantCmd) : List (Nat × BitVec 24 × Nat) :=
  (List.range q.rows).flatMap (fun i =>
    (if q.p.rot = 0 then [] else (List.range q.cols).map (fun j => (laneGroup unit j, q.p.rotStream, (q.firstIdx + j) / 512))) ++
    (if q.p.round == .sr && !splitOut q.p.out
      then (List.range q.cols).map (fun j => (laneGroup unit j, q.p.roundStream, quantIndex q i j / 32)) else []))

/-- Channel maxima after the rows of a slice (step 2 of R110): the magnitude of every finite input enters its channel's entry. DESIGN CHOICE (log 128): entry j of the operand is that of the shard's column j. -/
def chanMaxWords (c : CoreRef) (q : QuantCmd) (o : RegionOp) (s : State) : List Word :=
  let start := (List.range q.cols).map (fun j => BitVec.ofNat 32 (fromLe ((s.core c).opBytes o (4 * j) 4)))
  (List.range q.rows).foldl (fun m i =>
    ((m.zip (quantInput c q i s))).map (fun x => if (f32 x.2).special then x.1 else fmax x.1 (x.2 &&& 0x7FFFFFFF#32))) start

/-- The faults of a slice, each for its first occurrence in row order (R123, R133, R134). -/
def quantFaults (c : CoreRef) (e : Engine) (q : QuantCmd) (rows : List QRow) (s : State) : State :=
  (rows.zip (List.range q.rows)).foldl (fun s x =>
    let s := match x.1.nanAt with
      | some j => raiseFor c e { code := 0x2030, unit := 0,
                                 addr := windowAddr c q.src.space ((s.core c).opBase q.src + sourceAt q x.2 j) } s
      | none => s
    match x.1.badRow, q.rowScale with
    | some code, some o => raiseFor c e { code := code, unit := 0, addr := windowAddr c o.space ((s.core c).opBase o + 4 * x.2) } s
    | _, _ => s) s

/-- Saffron blocks as written: for each piece 64 bytes per row, piece 0 first, then a scale byte per row (R115). -/
def saffronBytes (p : QuantParams) (rows : List QRow) : List Byte :=
  (List.range (qoutPieces p.saffronOut)).flatMap (fun k => rows.flatMap (fun r => r.saffron.map (fun l => BitVec.ofNat 8 (nth l k 0)))) ++
  rows.map (fun r => BitVec.ofNat 8 r.safScale)

/-- Carries out writes to an optional destination. -/
def storeOpt (c : CoreRef) (e : Engine) (r : Running) (l : Option Loc) (ws : List (Nat × List Byte)) (s : State) : State :=
  match l with
  | some x => storeRuns c e r x ws s
  | none => s

/-- Saffron channels that a shard extracts from each row: the listed indices that lie in it (R114). -/
def extractedChannels (q : QuantCmd) : Nat :=
  (q.p.saffron.filter (fun i => decide (q.firstIdx ≤ i) && decide (i < q.firstIdx + q.cols))).length

/-- Writes what a slice produces: elements by piece, scales, dynamic row scales, saffron blocks, channel maxima, each in its layout (R110, R323). -/
def quantStore (c : CoreRef) (e : Engine) (r : Running) (q : QuantCmd) (rows : List QRow) (maxima : List Word) (s : State) : State :=
  let code (k i j : Nat) : Nat := match rows[i]? with | some x => nth (nth x.codes j []) k 0 | none => 0
  let scale (i n : Nat) : Nat := match rows[i]? with | some x => nth x.scales n 0 | none => 0
  let elems := (List.range (qoutPieces q.p.out)).flatMap (fun k =>
    (matrixWrites q.layout.val (fmtWidth (qoutFmt q.p.out)) q.rows q.cols q.elemStride (code k)).map (fun w => (k * q.pieceGap + w.1, w.2)))
  let s := storeOpt c e r q.elemDst elems s
  let s := storeOpt c e r q.scaleDst (matrixWrites q.scaleLayout.val 8 q.rows (groupsOf q.cols q.p.group) q.scaleStride scale) s
  let s := storeOpt c e r q.rowScaleDst [(0, rows.flatMap (fun x => leBytes 4 x.row.toNat))] s
  let s := storeOpt c e r q.saffronDst [(0, saffronBytes q.p rows)] s
  storeOpt c e r (q.chanMax.map Loc.region) [(0, maxima.flatMap (fun w => leBytes 4 w.toNat))] s

/-- One repetition of a quantizing operand on a path (0 operand, 1 write): its rows, the counts of the command so far, and the state after its writes, faults, draws and counts. Its status word goes to the running command (R141), and its statistics record covers the command so far (R136; log 121). QZ_COUNT[0] and [1] count the command by its rung once: DESIGN CHOICE (log 129), each wide operand of a matrix command is one. -/
def quantize (c : CoreRef) (e : Engine) (path : Nat) (r : Running) (q0 : QuantCmd) (before : Option QStat) (s : State) : List QRow × QStat × State :=
  let q := loadQuant c q0 s
  let rows := quantRows c q s
  let maxima := match q.chanMax with | some o => chanMaxWords c q o s | none => []
  let now := sliceStat rows
  let st := match before with | some b => b.add now | none => now
  let s := drawCore c (quantDraws path q) s
  let s := quantFaults c e q rows s
  let s := countGroups now (quantStore c e r q rows maxima s)
  let s := if before.isNone then countRung q.p s else s
  let s := storeOpt c e r (q.stats.map Loc.region) [(0, statsBytes q.p (extractedChannels q) st)] s
  (rows, st, modRun c e (fun r => { r with quant := some (qzWord q.p st false) }) s)

/-- A wide operand as the narrow operand that the operand path delivers to the array (R106). -/
def quantNarrow (q : QuantCmd) (rows : List QRow) (addr : Nat → Dword) : Narrow :=
  let rs : Nat → Option QRow := fun i => rows[i]?
  { fmt := qoutFmt q.p.out, pieces := qoutPieces q.p.out, rows := q.rows, cols := q.cols, group := q.p.group, scaleFmt := q.p.scaleFmt,
    rot := q.p.rot
    code := fun p i j => match rs i with | some r => nth (nth r.codes j []) p 0 | none => 0
    scale := fun i n => match rs i with | some r => BitVec.ofNat 8 (nth r.scales n 0) | none => 0
    rowScale := fun i => if q.p.rowScale == .none then none else (rs i).map (fun r => r.row)
    hasRowScale := q.p.rowScale != .none
    addrScale := fun _ _ => 0
    addrRow := addr }

/-- STREAM_QUANTIZE_WRITE: the write path quantizes a slice on its way into the scratchpad or the stacks (R106, R110), once for each repetition (R35). -/
def execStreamQuantizeWrite (x : CoreRun) (s : State) : Host.Outcome State Fault Refusal :=
  let c := x.core
  let path := x.path
  match (s.core c).run .stream with
  | some r =>
    match r.done, r.q.cmd.body with
    | false, .quantize q =>
      let x := (List.range (runsOf r.q.cmd)).foldl (fun (x : Option QStat × State) k =>
        let y := quantize c .stream 1 r (moveQuant q (advanceOf r.q.cmd k)) x.1 (beginReads c .stream r noErrs k x.2)
        (some y.2.1, y.2.2)) (none, corePath c .stream path s)
      .next (finish c .stream x.2)
    | _, _ => .next s
  | none => .next s

end Sys2Proof.Machine
end

