-- ==== Sys2Proof/Machine/Matrix.lean ====
section
/-! DEFINITION. The matrix engine (05): group terms, narrow promotion, exact accumulation, the saffron side pass, and
the checksum and residue checks. -/

namespace Sys2Proof.Machine

/-! ### Group terms (R154 to R156, R160) -/

/-- Exponent of the unit of a format (R154). -/
def unitExp (f : Fmt) : Int := (grid f).emin - (grid f).f

/-- An element as an integer in the unit of its format; none for NaN and infinity. -/
def elemInt (f : Fmt) (code : Nat) : Option Int :=
  match (grid f).decode code with
  | .num neg m e => some (shiftInt neg m e (unitExp f))
  | _ => none

/-- Elements of group `g` of row `i` of one piece; a zero group's bits are never read (R156). -/
def groupInts (x : Narrow) (piece i g : Nat) : List (Option Int) :=
  if scaleMeaning x.scaleFmt (x.scale i g) == .zero then List.replicate x.group (some 0)
  else (List.range x.group).map (fun k => elemInt x.fmt (x.code piece i (x.group * g + k)))

/-- An exact sum of products; a NaN or infinite element counts as zero in it. -/
def dot (x y : List (Option Int)) : Int := (x.zip y).foldl (fun s v => s + v.1.getD 0 * v.2.getD 0) 0

/-- The exact group sum of two pieces. -/
def groupSum (a b : Narrow) (j k i n g : Nat) : Int := dot (groupInts a j i g) (groupInts b k n g)

/-- Does a group of an operand hold a NaN or an infinity that its scale code does not hide. -/
def groupSpecial (x : Narrow) (i g : Nat) : Bool :=
  (List.range x.pieces).any (fun p => (groupInts x p i g).any (fun v => v.isNone))

/-- Is a scale of a group NaN, reserved, or beneath a row scale that is NaN or invalid (R90, R156). -/
def groupNan (x : Narrow) (i g : Nat) : Bool :=
  (match scaleMeaning x.scaleFmt (x.scale i g) with
   | .nan => true
   | .reserved => true
   | _ => false) ||
  (match x.rowScale i with
   | some w => isNan w || rowScaleInvalid w
   | none => false)

/-- The value of a group scale; 1 for codes that denote none. -/
def scaleVal (f : ScaleFmt) (c : Byte) : Val :=
  match scaleMeaning f c with
  | .scale v => v
  | _ => .num false 1 0

/-- f of R155: 2 where both operands were rotated with n = 32 or 128. -/
def rotFactor (n : Nat) : Val := if n = 32 ∨ n = 128 then .num false 2 0 else .num false 1 0

/-- The group term of one pass, whose exact sum over its pieces is `sum.1` in units of 2^−4·`sum.2` (R155, R156, R160). -/
def groupTerm (a b : Narrow) (i n g : Nat) (sum : Int × Nat) : Val :=
  if groupNan a i g || groupNan b n g || groupSpecial a i g || groupSpecial b n g then .nan
  else if scaleMeaning a.scaleFmt (a.scale i g) == .zero || scaleMeaning b.scaleFmt (b.scale n g) == .zero then .num false 0 0
  else
    let s : Val := .ofInt sum.1 (unitExp a.fmt + unitExp b.fmt - 4 * (sum.2 : Nat))
    let sc := (scaleVal a.scaleFmt (a.scale i g)).mul (scaleVal b.scaleFmt (b.scale n g))
    let rs := (f32 ((a.rowScale i).getD one32)).mul (f32 ((b.rowScale n).getD one32))
    (((s.mul sc).mul rs).mul (rotFactor (if a.rot = b.rot then a.rot else 0)))

/-- The passes of a product, each a list of piece pairs that form one group term (R176 to R179). -/
def passesOf (packing : Packing) (pa pb : Nat) (drop : Bool) (bandsPerPass : Nat) : List (List (Nat × Nat)) :=
  let ts := splitTerms pa pb drop
  match packing with
  | .passes => ts.map (fun t => [t])
  | .columns => ((List.range pa).map (fun j => ts.filter (fun t => t.1 == j))).filter (fun l => !l.isEmpty)
  | .bands =>
    let n := max 1 bandsPerPass
    (List.range ((ts.length + n - 1) / n)).map (fun i => (ts.drop (n * i)).take n)

/-- The weight 2^−4w at which the piece pairs of a pass meet: the least of them. -/
def passWeight (pass : List (Nat × Nat)) : Nat := pass.foldl (fun w t => max w (t.1 + t.2)) 0

/-- How a pass lies in the array, as bands of rows: the streamed piece, the stationary pieces in their columns, and the weight of the band's products. Row banding gives each pair a band; the other packings have one band, and column packing puts its pieces side by side (R176 to R178). -/
def bandsOf (packing : Packing) (pass : List (Nat × Nat)) : List (Nat × List Nat × Int) :=
  match packing, pass with
  | .bands, l => l.map (fun t => (t.1, [t.2], 16 ^ (passWeight l - (t.1 + t.2))))
  | _, [] => []
  | _, t :: l => [(t.1, (t :: l).map (fun u => u.2), 1)]

/-- Bits of a column adder (R178). -/
def adderWidth : Packing → Nat
  | .bands => 64
  | _ => 48

/-- The raw column sums of one output column, each in units of 2^−4w: one for a pass of one pair or of bands, one a piece with column packing. -/
def rawSums (a b : Narrow) (packing : Packing) (pass : List (Nat × Nat)) (i n g : Nat) : List (Int × Nat) :=
  match packing with
  | .bands => [((bandsOf .bands pass).foldl (fun v d => v + d.2.2 * d.2.1.foldl (fun v k => v + groupSum a b d.1 k i n g) 0) 0, passWeight pass)]
  | _ => pass.map (fun t => (groupSum a b t.1 t.2 i n g, t.1 + t.2))

/-- The exact sum of the raw sums of an output column, formed by the piece combiner where there are several (R177). -/
def combinePieces (l : List (Int × Nat)) : Int × Nat :=
  let w := l.foldl (fun w x => max w x.2) 0
  (l.foldl (fun v x => v + x.1 * 16 ^ (w - x.2)) 0, w)

/-! ### Upsets and checks (R181 to R184, R382) -/

/-- A flip of a value in the engine, and whether it was injected. -/
structure Hit where
  up       : Upset
  injected : Bool
  deriving DecidableEq, Repr

/-- The flips of repetition `rep` of a command: a hardware upset (log 8) and the armed injection of points 3 and 4 (R382). -/
def hitsOf (c : CoreRef) (up : Option Upset) (rep : Nat) (s : State) : List Hit :=
  let u := s.coreUnit c
  let inject (k : Strike) (w : Nat) : List Hit :=
    [{ up := { at_ := k, rep := 0, row := 0, pass := 0, piece := 0, index := 0, column := injectColumn s, mask := BitVec.ofNat 256 (2 ^ injectBit w s) }, injected := true }]
  (match up with
   | some x => if x.rep = rep then [{ up := x, injected := false }] else []
   | none => []) ++
  (if rep = 0 && injecting u 3 s then inject .sum 48 else if rep = 0 && injecting u 4 s then inject .promoted 32 else [])

/-- Clears ARM when the injection of point 3 or 4 fires. -/
def disarmMatrix (c : CoreRef) (s : State) : State :=
  if injecting (s.coreUnit c) 3 s || injecting (s.coreUnit c) 4 s then disarm s else s

/-- A value of `w` bits with bits flipped. -/
def flipBits (w : Nat) (v : Int) (mask : BitVec 256) : Int := (BitVec.ofInt w v ^^^ mask.setWidth w).toInt

/-- Masks of the flips that strike one value of row `i`, pass `p` and column `n`: raw sum `piece` of group `g`, or what the later stages make of it (`piece` 0). -/
def hitMask (hs : List Hit) (k : Strike) (i p piece g n : Nat) : BitVec 256 :=
  hs.foldl (fun m h =>
    let u := h.up
    if u.at_ == k && u.row == i && u.pass == p && u.piece == piece && u.index == g && u.column == n then m ^^^ u.mask else m) 0

/-- The stationary operand as row `i` of pass `p` finds it: flipped cells hold from the row that they are struck at (R181). -/
def cellsAt (b : Narrow) (hs : List Hit) (pass : List (Nat × Nat)) (p i : Nat) : Narrow :=
  let l := hs.filter (fun h => h.up.at_ == .cell && h.up.pass == p && decide (h.up.row ≤ i))
  let struck (k n j : Nat) : Nat :=
    l.foldl (fun v h => if (pass[h.up.piece]?).map (fun t => t.2) == some k && h.up.column == n && h.up.index == j
      then v ^^^ (h.up.mask.toNat % 2 ^ fmtWidth b.fmt) else v) (b.code k n j)
  if l.isEmpty then b else { b with code := struck }

/-- The raw sums of a pass as the adders deliver them. -/
def seenSums (a b : Narrow) (packing : Packing) (hs : List Hit) (pass : List (Nat × Nat)) (p i n g : Nat) : List (Int × Nat) :=
  let l := rawSums a (cellsAt b hs pass p i) packing pass i n g
  (l.zip (List.range l.length)).map (fun x =>
    let m := hitMask hs .sum i p x.2 g n
    if m = 0 then x.1 else (flipBits (adderWidth packing) x.1.1 m, x.1.2))

/-- The combined sum of a pass, with the flips that strike the piece combiner, which is 64 bits wide (R177). -/
def seenSum (a b : Narrow) (packing : Packing) (hs : List Hit) (pass : List (Nat × Nat)) (p i n g : Nat) : Int × Nat :=
  let x := combinePieces (seenSums a b packing hs pass p i n g)
  let m := hitMask hs .combined i p 0 g n
  if m = 0 || packing != .columns then x else (flipBits 64 x.1 m, x.2)

/-- The checksum prime of R181. -/
def checkPrime : Int := 16381

/-- The checksum operand of reduction position `j` in a band: the weighted sum over the columns of the load stream, mod p (R181). -/
def checkOperandAt (b : Narrow) (pieces : List Nat) (weight : Int) (j : Nat) : Int :=
  (weight * pieces.foldl (fun v k => v + (List.range b.rows).foldl (fun v n => v + (nth (groupInts b k n (j / max b.group 1)) (j % max b.group 1) none).getD 0) 0) 0) % checkPrime

/-- The checksum column's sum for a streamed row and group: Σ x·c, with the flips of the checksum cells and of the column's sum, which is column 256 (R181, R182). -/
def checkColumn (a b : Narrow) (packing : Packing) (hs : List Hit) (pass : List (Nat × Nat)) (p i g : Nat) : Int :=
  let bands := bandsOf packing pass
  let one (d : (Nat × List Nat × Int) × Nat) : Int :=
    dot (groupInts a d.1.1 i g) ((List.range a.group).map (fun k =>
      let j := a.group * g + k
      let m := hs.foldl (fun m h => if h.up.at_ == .cell && h.up.pass == p && h.up.piece == d.2 && decide (h.up.row ≤ i) && h.up.column == 256 && h.up.index == j
        then m ^^^ h.up.mask else m) 0
      some (((BitVec.ofInt 14 (checkOperandAt b d.1.2.1 d.1.2.2 j)) ^^^ m.setWidth 14).toNat : Int)))
  let v := (bands.zip (List.range bands.length)).foldl (fun v d => v + one d) 0
  let m := hitMask hs .sum i p 0 g 256
  if m = 0 then v else flipBits (adderWidth packing) v m

/-- The difference mod p of the raw column sums from the checksum column (R182). -/
def checkDiff (a b : Narrow) (packing : Packing) (hs : List Hit) (pass : List (Nat × Nat)) (p i g : Nat) : Int :=
  ((List.range b.rows).foldl (fun v n => (seenSums a b packing hs pass p i n g).foldl (fun v x => v + x.1) v) 0 -
    checkColumn a b packing hs pass p i g) % checkPrime

/-- Places (pass, row, group) whose checksum a flip can upset. Elsewhere the two sides are one sum, formed in two orders. -/
def checkPlaces (rows groups group : Nat) (h : Hit) : List (Nat × Nat × Nat) :=
  let u := h.up
  match u.at_ with
  | .sum => if u.row < rows ∧ u.index < groups then [(u.pass, u.row, u.index)] else []
  | .cell => if u.index / max group 1 < groups then ((List.range rows).filter (fun i => decide (u.row ≤ i))).map (fun i => (u.pass, i, u.index / max group 1)) else []
  | _ => []

/-- CMP_MX_CTL as the core's running matrix command keeps it (R583). -/
def matrixChecks (c : CoreRef) (s : State) : Nat := match (s.core c).run .matrix with | some r => r.checks | none => 0

/-- Raises and counts a mismatch at a streamed row and group: 0x2040 of the checksum with its difference (R182), 0x2041 of the residue (R184). -/
def mismatch (c : CoreRef) (residue : Bool) (syn : Int) (addr : Dword) (row group : Nat) (injected : Bool) (s : State) : State :=
  raiseFor c .matrix { code := if residue then 0x2041 else 0x2040, unit := 0, addr := addr, injected := injected,
                       syn := BitVec.ofNat 32 syn.toNat, detail := BitVec.ofNat 32 (row % 65536 + group % 65536 * 65536) }
    (s.count Off.mxCount (flag residue))

/-- The checks of one repetition, at the places that flips reach. `later` gives the change that a flip makes behind the adders, which the residue check finds unless it is a multiple of 3 (R184); `addr` is the address of a row. -/
def checkHits (c : CoreRef) (a b : Narrow) (packing : Packing) (passes : List (List (Nat × Nat))) (groups : Nat) (later : Hit → Int)
    (addr : Nat → Dword) (hs : List Hit) (s : State) : State :=
  hs.foldl (fun s h =>
    let s := if (matrixChecks c s).testBit 0 then
        (checkPlaces a.rows groups a.group h).foldl (fun s x =>
          match passes[x.1]? with
          | some pass =>
            let d := checkDiff a b packing hs pass x.1 x.2.1 x.2.2
            if d = 0 then s else mismatch c false d (addr x.2.1) x.2.1 x.2.2 h.injected s
          | none => s) s
      else s
    if (matrixChecks c s).testBit 1 && decide (later h % 3 ≠ 0) then mismatch c true 0 (addr h.up.row) h.up.row h.up.index h.injected s else s) s

/-- Did a check of this command fail: CHK of R185. -/
def chkBit (c : CoreRef) (s : State) : Bool :=
  match (s.core c).run .matrix with
  | some r => r.raised.contains 0x2040 || r.raised.contains 0x2041
  | none => false

/-! ### Operands -/

/-- The counts of the quantizers of a matrix command's two operands so far. -/
abbrev Quants := Option QStat × Option QStat

/-- Prepares a matrix operand: a stored tensor as it lies, or the result of the operand path on a wide slice (R106); with the path's counts. -/
def prepare (c : CoreRef) (r : Running) (m : MatOperand) (flip : Bool) (before : Option QStat) (s : State) : Narrow × Option QStat × State :=
  match m with
  | .narrow t => (storedNarrow c t flip s, none, s)
  | .wide q =>
    let x := quantize c .matrix 0 r q before s
    (quantNarrow q x.1 (fun i => match q.rowScale with
      | some o => windowAddr c o.space ((s.core c).opBase o + 4 * i)
      | none => 0), some x.2.1, x.2.2)

/-- Reserved group-scale codes and invalid row scales of a stored operand: 0x2020 and 0x2021, each once (R91). -/
def scaleFaults (c : CoreRef) (e : Engine) (x : Narrow) (groups : Nat) (s : State) : State :=
  (List.range x.rows).foldl (fun s i =>
    let s := match x.rowScale i with
      | some w => if rowScaleInvalid w then raiseFor c e { code := 0x2021, unit := 0, addr := x.addrRow i } s else s
      | none => s
    (List.range groups).foldl (fun s g =>
      if scaleMeaning x.scaleFmt (x.scale i g) == .reserved then
        raiseFor c e { code := 0x2020, unit := 0, addr := x.addrScale i g } s else s) s) s

/-- The faults of the scales of an operand; those of a wide operand were reported by its quantizer path (R134). -/
def operandFaults (c : CoreRef) (m : MatOperand) (x : Narrow) (groups : Nat) (s : State) : State :=
  match m with
  | .narrow _ => scaleFaults c .matrix x groups s
  | .wide _ => s

/-- Both operands: the stationary block is loaded first, row-wise or column-wise (R149, R172), then the rows stream. The path's status word is the streamed operand's where both are wide (log 127). -/
def prepareBoth (c : CoreRef) (r : Running) (a b : MatOperand) (transposed colWise : Bool) (before : Quants) (s : State) : Narrow × Narrow × Quants × State :=
  let y := prepare c r (facing b (!colWise)) (!colWise) before.2 s
  let x := prepare c r (facing a false) transposed before.1 y.2.2
  let k := groupsOf (max x.1.cols y.1.cols) x.1.group
  let s := operandFaults c a x.1 (min k (groupsOf x.1.cols x.1.group)) (operandFaults c b y.1 (min k (groupsOf y.1.cols y.1.group)) x.2.2)
  (x.1, y.1, (x.2.1, y.2.1), s)

/-! ### Narrow promotion (R157) -/

/-- The steps of an output element: pass, with its number, and group, in order (R157, R176). -/
def termSteps (passes : List (List (Nat × Nat))) (groups : Nat) : List ((List (Nat × Nat) × Nat) × Nat) :=
  (passes.zip (List.range passes.length)).flatMap (fun p => (List.range groups).map (fun g => (p, g)))

/-- The steps before one that a flip strikes, and that step. -/
def stepsTo (l : List ((List (Nat × Nat) × Nat) × Nat)) (u : Upset) : List ((List (Nat × Nat) × Nat) × Nat) × Option ((List (Nat × Nat) × Nat) × Nat) :=
  let before := l.takeWhile (fun x => !(x.1.2 == u.pass && x.2 == u.index))
  (before, l[before.length]?)

/-- The change that a flip makes in the piece combiner. -/
def combinedDelta (a b : Narrow) (packing : Packing) (hs : List Hit) (pass : List (Nat × Nat)) (u : Upset) : Int :=
  let x := combinePieces (seenSums a b packing hs pass u.pass u.row u.column u.index)
  if packing == .columns then flipBits 64 x.1 u.mask - x.1 else 0

/-- One accumulator after a term is promoted into it, before any flip; the flag says whether a term was NaN. -/
def promoteTerm (a b : Narrow) (packing : Packing) (hs : List Hit) (i n : Nat) (x : Word × Bool) (p : (List (Nat × Nat) × Nat) × Nat) : Word × Bool :=
  let t := groupTerm a (cellsAt b hs p.1.1 p.1.2 i) i n p.2 (seenSum a b packing hs p.1.1 p.1.2 i n p.2)
  (toF32 ((f32 x.1).add t), x.2 || t == .nan)

/-- One accumulator after a list of steps, each followed by the flips of its result. -/
def promote (a b : Narrow) (packing : Packing) (hs : List Hit) (i n : Nat) (steps : List ((List (Nat × Nat) × Nat) × Nat)) (v0 : Word) : Word × Bool :=
  steps.foldl (fun x p =>
    let y := promoteTerm a b packing hs i n x p
    (y.1 ^^^ (hitMask hs .promoted i p.1.2 0 p.2 n).setWidth 32, y.2)) (v0, false)

/-- The change that a flip makes to what the combiner or the promotion stage forms. -/
def promoteDelta (a b : Narrow) (packing : Packing) (hs : List Hit) (steps : List ((List (Nat × Nat) × Nat) × Nat)) (v0 : Nat → Nat → Word) (h : Hit) : Int :=
  let u := h.up
  if a.rows ≤ u.row ∨ b.rows ≤ u.column then 0
  else match stepsTo steps u with
    | (_, none) => 0
    | (before, some p) =>
      match u.at_ with
      | .combined => combinedDelta a b packing hs p.1.1 u
      | .promoted =>
        let good := (promoteTerm a b packing hs u.row u.column (promote a b packing hs u.row u.column before (v0 u.row u.column)) p).1
        ((good ^^^ u.mask.setWidth 32).toNat : Int) - (good.toNat : Int)
      | _ => 0

/-- Is a word an infinity. -/
def isInf (w : Word) : Bool := match f32 w with | .inf _ => true | _ => false

/-- What a matrix command has counted over its repetitions so far. -/
structure MatAcc where
  quants : Quants
  nan    : Bool
  inf    : Bool
  dropped : Bool

/-- Nothing counted. -/
def MatAcc.empty : MatAcc := { quants := (none, none), nan := false, inf := false, dropped := false }

/-- Writes rows of FP32 results and counts the NaN and infinite ones that are written (R190); says whether any was NaN, and whether any written was infinite. -/
def storeResults (c : CoreRef) (r : Running) (o : RegionOp) (stride : Nat) (rows : List (List Word)) (s : State) : Bool × Bool × State :=
  let s := (rows.zip (List.range rows.length)).foldl (fun s x => storeOp c r o (x.2 * stride) (x.1.flatMap (fun v => leBytes 4 v.toNat)) s) s
  let flat := rows.flatMap (fun x => x)
  let written := !suppressed r c o
  let nans := (flat.filter isNan).length
  let infs := (flat.filter isInf).length
  (decide (0 < nans), written && decide (0 < infs),
    (s.count Off.mxCount 4 (if written then nans else 0)).count Off.mxCount 5 (if written then infs else 0))

/-- Carries out repetition `k` of a narrow-promotion product. -/
def productOnce (c : CoreRef) (r : Running) (p0 : ProductCmd) (bandsPerPass : Nat) (up : Option Upset) (errs : ReadErrs) (x : MatAcc × State) (k : Nat) : MatAcc × State :=
  let p := moveProduct p0 (advanceOf r.q.cmd k)
  let old := beginReads c .matrix r errs k x.2
  let z := prepareBoth c r p.a p.b p.transposed p.colWise x.1.quants old
  let a := z.1
  let b := z.2.1
  let s := z.2.2.2
  let groups := groupsOf (max a.cols b.cols) a.group
  let passes := passesOf p.packing a.pieces b.pieces p.drop bandsPerPass
  let steps := termSteps passes groups
  let hs := hitsOf c up k s
  let start (i n : Nat) : Word := if p.fresh then 0 else BitVec.ofNat 32 (fromLe ((old.core c).opBytes p.dst (i * p.dstStride + 4 * n) 4))
  let rows := (List.range a.rows).map (fun i => (List.range b.rows).map (fun n => promote a b p.packing hs i n steps (start i n)))
  let addr (i : Nat) : Dword := windowAddr c p.dst.space ((s.core c).opBase p.dst + i * p.dstStride)
  let s := disarmMatrix c (checkHits c a b p.packing passes groups (promoteDelta a b p.packing hs steps start) addr hs s)
  let w := storeResults c r p.dst p.dstStride (rows.map (fun l => l.map (fun v => v.1))) s
  ({ x.1 with quants := z.2.2.1, nan := x.1.nan || w.1 || rows.any (fun l => l.any (fun v => v.2)), inf := x.1.inf || w.2.1 }, w.2.2)

/-- Carries out a narrow-promotion product. -/
def productRun (c : CoreRef) (r : Running) (p : ProductCmd) (bandsPerPass : Nat) (up : Option Upset) (errs : ReadErrs) (s : State) : State :=
  let x := (List.range (runsOf r.q.cmd)).foldl (productOnce c r p bandsPerPass up errs) (MatAcc.empty, corePath c .matrix (strikesPath up) s)
  let st : MxStat := { MxStat.empty with nan := x.1.nan, inf := x.1.inf, chk := chkBit c x.2 }
  finish c .matrix (modRun c .matrix (fun r => { r with status := mxWord st false }) x.2)

/-! ### Exact accumulation (R159 to R170) -/

/-- The NaN marker of a long register (R161). -/
def nanMarker : Int := -(2 ^ 255)

/-- The long registers of one element and what its terms counted. -/
structure LongReg where
  hi      : Int
  lo      : Int
  added   : Nat
  oow     : Nat
  dropped : Nat
  nan     : Bool

/-- Adds a term (R161, R163 to R165). -/
def LongReg.add (x : LongReg) (anchor : Int) (two : Bool) (t : Val) : LongReg :=
  match t with
  | .num neg m e =>
    -- |c| < 2^(A + 32), and c as an integer in the unit of the last register
    let below := m == 0 || decide (floorLog2 m 1 + e < anchor + 32)
    let unit := if two then anchor - 416 else anchor - 192
    let p := scaleFrac m 1 (e - unit)
    let whole := p.1 % p.2 == 0
    if !(below && whole) then
      if two then { x with dropped := x.dropped + 1 } else { x with oow := x.oow + 1 }
    else
      let v : Nat := p.1 / p.2
      let hi : Int := if two then ((v / 2 ^ 224 : Nat) : Int) else (v : Int)
      let lo : Int := if two then ((v % 2 ^ 224 : Nat) : Int) else 0
      let sg : Int := if neg then -1 else 1
      let x := { x with added := x.added + 1 }
      if x.hi = nanMarker then x else { x with hi := x.hi + sg * hi, lo := x.lo + sg * lo }
  | _ => { x with hi := nanMarker, added := x.added + 1, nan := true }

/-- A 256-bit register read from bytes. -/
def regOfBytes (bs : List Byte) : Int := (BitVec.ofNat 256 (fromLe bs)).toInt

/-- The bytes of a 256-bit register. -/
def bytesOfReg (v : Int) : List Byte := leBytes 32 (BitVec.ofInt 256 v).toNat

/-- The FP32 result of an element at close (R166). -/
def closeValue (anchor : Int) (beyond : Bool) (hi lo : Int) : Word :=
  if beyond || hi == nanMarker || lo == nanMarker then nan32
  else
    let v := (Val.ofInt hi (anchor - 192)).add (.ofInt lo (anchor - 416))
    toF32 v

/-- Reads an element's registers. -/
def longAt (c : CoreRef) (o : RegionOp) (two : Bool) (i n : Nat) (s : State) : LongReg :=
  let w := if two then 64 else 32
  { hi := regOfBytes ((s.core c).opBytes o (w * (256 * i + n)) 32),
    lo := if two then regOfBytes ((s.core c).opBytes o (w * (256 * i + n) + 32) 32) else 0,
    added := 0, oow := 0, dropped := 0, nan := false }

/-- The long registers after a term is added, before any flip. -/
def accumulateTerm (a b : Narrow) (packing : Packing) (hs : List Hit) (anchor : Int) (two : Bool) (i n : Nat) (x : LongReg) (p : (List (Nat × Nat) × Nat) × Nat) : LongReg :=
  x.add anchor two (groupTerm a (cellsAt b hs p.1.1 p.1.2 i) i n p.2 (seenSum a b packing hs p.1.1 p.1.2 i n p.2))

/-- The long registers of an element after a list of steps, each followed by the flips of its registers. -/
def accumulate (a b : Narrow) (packing : Packing) (hs : List Hit) (anchor : Int) (two : Bool) (i n : Nat) (steps : List ((List (Nat × Nat) × Nat) × Nat)) (x0 : LongReg) : LongReg :=
  steps.foldl (fun x p =>
    let y := accumulateTerm a b packing hs anchor two i n x p
    let h := hitMask hs .promoted i p.1.2 0 p.2 n
    let l := hitMask hs .low i p.1.2 0 p.2 n
    { y with hi := if h = 0 then y.hi else flipBits 256 y.hi h, lo := if l = 0 || !two then y.lo else flipBits 256 y.lo l }) x0

/-- The change that a flip makes to what the combiner or a long-register adder forms. -/
def accumulateDelta (a b : Narrow) (packing : Packing) (hs : List Hit) (anchor : Int) (two : Bool) (steps : List ((List (Nat × Nat) × Nat) × Nat))
    (start : Nat → Nat → LongReg) (h : Hit) : Int :=
  let u := h.up
  if a.rows ≤ u.row ∨ b.rows ≤ u.column then 0
  else match stepsTo steps u with
    | (_, none) => 0
    | (before, some p) =>
      let good := accumulateTerm a b packing hs anchor two u.row u.column (accumulate a b packing hs anchor two u.row u.column before (start u.row u.column)) p
      match u.at_ with
      | .combined => combinedDelta a b packing hs p.1.1 u
      | .promoted => flipBits 256 good.hi u.mask - good.hi
      | .low => if two then flipBits 256 good.lo u.mask - good.lo else 0
      | _ => 0

/-- Adds the terms of repetition `k` of an exact-mode product to the registers of its open block. -/
def exactOnce (c : CoreRef) (r : Running) (p0 : ExactCmd) (up : Option Upset) (errs : ReadErrs) (x : MatAcc × State) (k : Nat) : MatAcc × State :=
  let p := moveExact p0 (advanceOf r.q.cmd k)
  let z := prepareBoth c r p.a p.b p.transposed p.colWise x.1.quants (beginReads c .matrix r errs k x.2)
  let a := z.1
  let b := z.2.1
  let s := z.2.2.2
  match (s.core c).block p.lr with
  | none => x
  | some blk =>
    let two := blk.two
    let w := longWidth p
    let s := if p.opens && k == 0 then storeOp c r p.lr 0 (List.replicate (p.blockRows * 256 * w) 0) s else s
    let groups := groupsOf (max a.cols b.cols) a.group
    let passes := passesOf p.packing a.pieces b.pieces p.drop 256
    let steps := termSteps passes groups
    let hs := hitsOf c up k s
    let start (i n : Nat) : LongReg := longAt c p.lr two (p.row0 + i) n s
    let cells := (List.range a.rows).flatMap (fun i => (List.range b.rows).map (fun n => (i, n)))
    let results := cells.map (fun x => (x, accumulate a b p.packing hs blk.anchor two x.1 x.2 steps (start x.1 x.2)))
    let addr (i : Nat) : Dword := windowAddr c p.lr.space ((s.core c).opBase p.lr + w * 256 * (p.row0 + i))
    let s := disarmMatrix c (checkHits c a b p.packing passes groups (accumulateDelta a b p.packing hs blk.anchor two steps start) addr hs s)
    let s := results.foldl (fun s x =>
      storeOp c r p.lr (w * (256 * (p.row0 + x.1.1) + x.1.2)) (bytesOfReg x.2.hi ++ (if two then bytesOfReg x.2.lo else [])) s) s
    let number (x : Nat × Nat) : Nat := (p.lr.offset - p0.lr.offset) / w + 256 * (p.row0 + x.1) + x.2
    let dropped := total (results.map (fun x => x.2.dropped))
    let s := s.count Off.mxCount 3 dropped
    let s := if dropped = 0 then s else raiseFor c .matrix { code := 0x2042, unit := 0 } s
    let blk' := { blk with oow := blk.oow + total (results.map (fun x => x.2.oow)), dropped := blk.dropped || decide (0 < dropped),
                           terms := results.foldl (fun m x => Sparse.modify (fun _ => 0) m (number x.1) (· + x.2.added)) blk.terms }
    ({ x.1 with quants := z.2.2.1, nan := x.1.nan || results.any (fun x => x.2.nan), dropped := x.1.dropped || decide (0 < dropped) },
      s.modCore c (fun k => { k with blocks := k.blocks.map (fun y => if y.region == blk.region then blk' else y) }))

/-- Largest number of group terms added to one element of a block. -/
def ExactBlock.most (b : ExactBlock) : Nat := b.terms.foldl (fun m x => max m x.2) 0

/-- Carries out an exact-mode product on its open block: opens it with zero registers, adds its terms, and closes it into results (R162). -/
def exactRun (c : CoreRef) (r : Running) (p : ExactCmd) (up : Option Upset) (errs : ReadErrs) (s0 : State) : State :=
  let before := match (s0.core c).block p.lr with | some b => b.most | none => 0
  let x := (List.range (runsOf r.q.cmd)).foldl (exactOnce c r p up errs) (MatAcc.empty, corePath c .matrix (strikesPath up) s0)
  let s := x.2
  match (s.core c).block p.lr with
  | none => finish c .matrix s
  | some blk =>
    let beyond := decide (2 ^ 30 < blk.most)
    let s := if beyond && decide (before ≤ 2 ^ 30) then raiseFor c .matrix { code := 0x2045, unit := 0 } s else s
    let rows := if p.closes then
      (List.range p.blockRows).map (fun i => (List.range (stationaryShape p.b p.colWise).1).map (fun n =>
        let x := longAt c p.lr blk.two i n s
        closeValue blk.anchor beyond x.hi x.lo)) else []
    let w := storeResults c r p.dst p.dstStride rows s
    let st : MxStat :=
      { oow := blk.oow, nan := x.1.nan || w.1, inf := w.2.1, chk := chkBit c w.2.2,
        two := blk.two, dropped := blk.dropped, closed := p.closes, tooMany := beyond, terms := blk.most }
    finish c .matrix (modRun c .matrix (fun r => { r with status := mxWord st false }) w.2.2)

/-! ### The commands -/

/-- MATRIX_PRODUCT: a narrow-promotion command (R157). -/
def execMatrixProduct (c : CoreRef) (x : Conditions) (s : State) : Host.Outcome State Fault Refusal :=
  let up := x.up
  let errs := x.errs
  match (s.core c).run .matrix with
  | some r =>
    match r.done, r.q.cmd.body with
    | false, .product p => .next (productRun c r p 256 up errs s)
    | _, _ => .next s
  | none => .next s

/-- EXACT_MODE_PRODUCT: opens, adds to or closes a block of long registers (R162). -/
def execExactModeProduct (c : CoreRef) (x : Conditions) (s : State) : Host.Outcome State Fault Refusal :=
  let up := x.up
  let errs := x.errs
  match (s.core c).run .matrix with
  | some r =>
    match r.done, r.q.cmd.body with
    | false, .exact p => .next (exactRun c r p up errs s)
    | _, _ => .next s
  | none => .next s

/-- SAFFRON_SIDE_PASS: a narrow-promotion command on saffron blocks, with at most four bands a pass (R179). -/
def execSaffronSidePass (c : CoreRef) (x : Conditions) (s : State) : Host.Outcome State Fault Refusal :=
  let up := x.up
  let errs := x.errs
  match (s.core c).run .matrix with
  | some r =>
    match r.done, r.q.cmd.body with
    | false, .saffron p => .next (productRun c r p 4 up errs s)
    | _, _ => .next s
  | none => .next s

end Sys2Proof.Machine
end

