-- ==== Sys2Proof/Machine/Trace.lean ====
section
/-! DEFINITION. Trace records (R72, R73). -/

namespace Sys2Proof.Machine

/-- What a trace record says besides its times (R72). -/
structure TraceRec where
  tag     : Tag
  engine  : Nat
  zero    : Bool
  timing  : Bool
  value   : Bool
  fault   : Bool
  check   : Bool
  begun   : Dword
  entries : Nat
  unit    : UnitId

/-- The 32 bytes of a trace record (R72). -/
def traceBytes (r : TraceRec) (s : State) : List Byte :=
  leBytes 8 (r.tag.toNat + 2 ^ 48 * r.engine + 2 ^ 50 * flag r.zero + 2 ^ 51 * flag r.timing + 2 ^ 52 * flag r.value +
    2 ^ 53 * flag r.fault + 2 ^ 54 * flag r.check) ++
  leBytes 8 r.begun.toNat ++ leBytes 8 s.now.toNat ++ leBytes 4 r.entries ++ leBytes 2 s.stepNo.toNat ++ leBytes 2 r.unit.toNat

/-- Does tracing of an engine take place (CMP_TRACE_CTL, R620). -/
def tracing (engine : Nat) (s : State) : Bool := s.mgmt.traceOn && bit (s.act Off.traceCtl) (1 + min engine 2)

/-- Writes a record at position `pos` of sub-buffer `j` (R73): the next position, and whether the sub-buffer has stopped. -/
def traceAt (j pos : Nat) (full : Bool) (r : TraceRec) (s : State) : State × Nat × Bool :=
  let stripes := bits (s.act Off.traceSize) 0 16
  let room := stripes * 4096
  let base := (s.act Off.traceBase).toNat + j * stripes * stripeBytes
  if full || room == 0 then (s, pos, full)
  else
    let s := stackStore (.device 0 []) 4 (base + 32 * pos) (traceBytes r s) s
    if pos + 1 < room then (s, pos + 1, false)
    else if bit (s.act Off.traceCtl) 4 then (s, 0, false) else (s, 0, true)

/-- Writes the record of a core's command to the core's sub-buffer. -/
def traceCore (c : CoreRef) (r : TraceRec) (s : State) : State :=
  if tracing r.engine s then
    let k := s.core c
    let x := traceAt (coreKey c) k.tracePos k.traceFull r s
    x.1.modCore c (fun k => { k with tracePos := x.2.1, traceFull := x.2.2 })
  else s

/-- Writes the record of an update command to its unit's sub-buffer. -/
def traceUU (t : Nat) (r : TraceRec) (s : State) : State :=
  if tracing 3 s then
    let u := s.uu t
    let x := traceAt (256 + t) u.tracePos u.traceFull r s
    let u := x.1.uu t
    x.1.setUU t { u with tracePos := x.2.1, traceFull := x.2.2 }
  else s

end Sys2Proof.Machine
end

