-- ==== Sys2Proof/Machine/Vector.lean ====
section
/-! DEFINITION. The vector engine (06): streams, element-wise operations, tables, row reductions, draws, and the
re-execution of sampled commands (R378, R379). -/

namespace Sys2Proof.Machine

/-! ### Streams -/

/-- The row and the element of a stream that element `j` of row `i` is read from: a stride of 0 is a broadcast (R55). -/
def streamAt (v : VStream) (i j : Nat) : Nat × Nat := (if v.rowStride = 0 then 0 else i, if v.stride = 0 then 0 else j)

/-- Stored code of element `j` of row `i` of a source stream of `rows` rows of `n` elements (R194, R201); none beyond what is stored (R336). -/
def sourceCode (c : CoreRef) (v : VStream) (rows n i j : Nat) (s : State) : Option Nat :=
  let w := fmtWidth v.fmt
  let p := streamAt v i j
  let x := streamExtent v rows n
  let base := p.1 * v.rowStride
  if p.1 < x.1 ∧ p.2 < x.2 then
    some (if w = 4 then bits (nth ((s.core c).opBytes v.op (base + p.2 / 2) 1) 0 0) (4 * (p.2 % 2)) 4
      else fromLe ((s.core c).opBytes v.op (base + p.2 * (w / 8)) (w / 8)))
  else none

/-- Row `k` of a stream's group-scale codes, group `g` (log 125). -/
def streamScale (c : CoreRef) (o : RegionOp) (groups k g : Nat) (s : State) : Byte := nth ((s.core c).opBytes o (k * groups + g) 1) 0 0

/-- Row scale `k` of a stream. -/
def streamRowScale (c : CoreRef) (o : RegionOp) (k : Nat) (s : State) : Word := BitVec.ofNat 32 (fromLe ((s.core c).opBytes o (4 * k) 4))

/-- Group-scale code and row scale that apply to element `j` of row `i`; 1.0 where the stream names no group scales. -/
def sourceScale (c : CoreRef) (v : VStream) (rows n i j : Nat) (s : State) : (ScaleFmt × Byte) × Option Word :=
  let p := streamAt v i j
  ((match v.scales with
    | some o => (v.scaleFmt, streamScale c o (groupsOf (streamExtent v rows n).2 v.group) p.1 (if v.group = 0 then 0 else p.2 / v.group) s)
    | none => (.e8m0, 0x7F)), v.rowScales.map (fun o => streamRowScale c o p.1 s))

/-- Element `j` of row `i` of a source as FP32 (R198). -/
def sourceElem (c : CoreRef) (v : VStream) (rows n i j : Nat) (s : State) : Word :=
  match sourceCode c v rows n i j s with
  | none => 0
  | some code =>
    match v.fmt with
    | .fp32 => BitVec.ofNat 32 code
    | .bf16 => BitVec.ofNat 32 (code * 65536)
    | .u32 => BitVec.ofNat 32 code
    | f => let k := sourceScale c v rows n i j s; toF32 (elementValue (grid f) k.1.1 code k.1.2 k.2)

/-- The sign bit that select decides by (R624): the stored one, but a narrow zero code has the effect of +0 (R78), and so has an element of a zero group (R90). -/
def sourceSign (c : CoreRef) (v : VStream) (rows n i j : Nat) (s : State) : Bool :=
  match sourceCode c v rows n i j s with
  | none => false
  | some code =>
    let k := (sourceScale c v rows n i j s).1
    code.testBit (fmtWidth v.fmt - 1) && !(isNarrow v.fmt && (code % 2 ^ (fmtWidth v.fmt - 1) == 0 || scaleMeaning k.1 k.2 == .zero))

/-- Reserved scale codes and invalid row scales that the sources read: 0x2020 and 0x2021, each once (R91). -/
def sourceFaults (c : CoreRef) (v : VectorCmd) (rows : Nat) (s : State) : State :=
  v.srcs.foldl (fun s x =>
    if !isNarrow x.fmt then s
    else
      let e := streamExtent x rows v.count
      let groups := groupsOf e.2 x.group
      (List.range e.1).foldl (fun s i =>
        let s := match x.rowScales with
          | some o =>
            if rowScaleInvalid (streamRowScale c o i s) then
              raiseFor c .vector { code := 0x2021, unit := 0, addr := windowAddr c o.space ((s.core c).opBase o + 4 * i) } s
            else s
          | none => s
        match x.scales with
        | some o =>
          (List.range groups).foldl (fun s g =>
            if scaleMeaning x.scaleFmt (streamScale c o groups i g s) == .reserved then
              raiseFor c .vector { code := 0x2020, unit := 0, addr := windowAddr c o.space ((s.core c).opBase o + (i * groups + g)) } s
            else s) s
        | none => s) s) s

/-! ### Tables (R214 to R217) -/

/-- Entry number and fraction of an input that is not NaN (R215). -/
def tableIndex (b : Int) (x : Word) : Nat × Word :=
  let mag := x.toNat % 2 ^ 31
  let sigma := if mag = 0 then 0 else x.toNat / 2 ^ 31
  let v := (f32 x).abs
  if v.cmp (.pow2 b) < 0 then
    match v with
    | .num _ m e =>
      let p := scaleFrac m 1 (e + 3 - b)
      let j := p.1 / p.2
      (512 * sigma + j, BitVec.ofNat 32 (Grid.fp32.fracCode .rne 0 false (p.1 % p.2) p.2))
    | _ => (0, 0)
  else if v.cmp (.pow2 (b + 62)) < 0 then
    let e : Int := Int.ofNat (mag / 2 ^ 23) - 127
    (512 * sigma + 8 * (e - b + 1).toNat + bits x 20 3, toF32 (.num false (bits x 0 20) (-20)))
  else (512 * sigma + 8 * 63, 0)

/-- The table value of an input (R216). -/
def tableValue (c : CoreRef) (t : RegionOp) (b : Int) (s : State) (x : Word) : Word :=
  if isNan x then nan32
  else
    let k := tableIndex b x
    let co (i : Nat) : Word := BitVec.ofNat 32 (fromLe ((s.core c).opBytes t (16 * k.1 + 4 * i) 4))
    ffma k.2 (ffma k.2 (co 2) (co 1)) (co 0)

/-! ### Element-wise operations (R204, R210, R622 to R624) -/

/-- The FP32 result of an element-wise operation from its sources, the third with its stored sign. -/
def elementOp (c : CoreRef) (op : VOp) (s : State) (x y z : Word) (sign : Bool) : Word :=
  match op with
  | .copy => x
  | .convert => x
  | .scale k => fmul x k
  | .fill => x
  | .cacheFill => x
  | .add => fadd x y
  | .sub => fsub x y
  | .mul => fmul x y
  | .min => fmin x y
  | .max => fmax x y
  | .compare r => if relHolds r (f32 x) (f32 y) then one32 else 0
  | .select => if sign then y else x
  | .fma => ffma x y z
  | .div => fdiv x y
  | .sqrt => fsqrt x
  | .rsqrt => frsqrt x
  | .table t b => tableValue c t b s x
  | .tableTimes t b => fmul x (tableValue c t b s y)
  | .reduce _ _ => x
  | .draw _ _ _ _ => x

/-- Element `j` of row `i` of source `n` of a command of `rows` rows. -/
def sourceAt3 (c : CoreRef) (v : VectorCmd) (rows n i j : Nat) (s : State) : Word :=
  match v.srcs[n]? with | some x => sourceElem c x rows v.count i j s | none => 0

/-- The FP32 result of element `j` of row `i`. -/
def elementAt (c : CoreRef) (v : VectorCmd) (rows i j : Nat) (s : State) : Word :=
  let src (n : Nat) : Word := sourceAt3 c v rows n i j s
  let sign : Bool := match v.srcs[2]? with | some x => sourceSign c x rows v.count i j s | none => false
  elementOp c v.vop s (src 0) (src 1) (src 2) sign

/-! ### Row reductions (R211 to R213) -/

/-- A candidate of a maximum with index: its value, and no index for a lane that received no element. -/
abbrev Cand := Word × Option Nat

/-- The better of two candidates: NaN first, then the larger, then the lower index. -/
def bestOf (a b : Cand) : Cand :=
  if isNan a.1 then a else if isNan b.1 then b
  else if belowR622 (f32 a.1) (f32 b.1) then b
  else if belowR622 (f32 b.1) (f32 a.1) then a
  else match a.2, b.2 with
    | some i, some j => if j < i then b else a
    | none, some _ => b
    | _, none => a

/-- Folds adjacent pairs of a list: one stage of the tree. -/
def pairUp {α : Type} (f : α → α → α) : List α → List α
  | a :: b :: r => f a b :: pairUp f r
  | l => l

/-- Lane partials, then 8 stages, lane 0 (R211). -/
def treeReduce {α : Type} (f : α → α → α) (one : α) (xs : List α) : α :=
  let lane (l : Nat) : α :=
    (List.range ((xs.length + 255) / 256)).foldl (fun p k => match xs[256 * k + l]? with | some x => f p x | none => p) one
  let stages := (List.range 8).foldl (fun p _ => pairUp f p) ((List.range 256).map lane)
  nth stages 0 one

/-- Identity of each reduction. -/
def reduceOne : Reduction → Word
  | .sum => 0x80000000#32
  | .sumSquares => 0x80000000#32
  | .max => 0xFF800000#32
  | .min => 0x7F800000#32
  | .maxIndex => 0xFF800000#32

/-- The result of a reduction other than a maximum with index, from the row and its carry (R211, R212). -/
def reduceRow (r : Reduction) (carry : Option Word) (xs : List Word) : Word :=
  let f : Word → Word → Word := match r with
    | .sum => fadd
    | .sumSquares => fadd
    | .max => fmax
    | .min => fmin
    | .maxIndex => fmax
  let ys := if r == .sumSquares then xs.map (fun x => fmul x x) else xs
  let t := treeReduce f (reduceOne r) ys
  match carry with
  | some k => f k t
  | none => t

/-- Value and index of a maximum with index; a row that holds a NaN gives the canonical NaN and 0xFFFF_FFFF (R213). -/
def maxIndexRow (carry : Option Cand) (xs : List Word) (first : Nat) : Word × Nat :=
  let cs : List Cand := (xs.zip (List.range xs.length)).map (fun x => (x.1, some (first + x.2)))
  let t := treeReduce bestOf ((0xFF800000#32, none) : Cand) cs
  let t := match carry with | some k => bestOf k t | none => t
  if isNan t.1 then (nan32, 0xFFFFFFFF) else (t.1, t.2.getD 0xFFFFFFFF)

/-! ### Draws (R219 to R223) -/

/-- Key of a score: β × s + G(u) formed exactly and rounded once; in greedy mode the score itself. DEDUCED (log 21): one rounding. -/
def drawKey (beta : Word) (greedy : Bool) (x : Word) (v : Nat) : Word :=
  if greedy then x else ffma beta x (Config.gumbel (BitVec.ofNat 23 (v / 512)))

/-- The result of a row of keys with their indices (R222, R223): key, index, and whether a key was NaN or all were −∞. -/
def drawRow (ks : List (Word × Nat)) : Word × Nat × Bool × Bool :=
  if ks.any (fun k => isNan k.1) then (nan32, 0xFFFFFFFF, true, false)
  else if ks.all (fun k => f32 k.1 == .inf true) then (0xFF800000#32, 0xFFFFFFFF, false, true)
  else
    let w := ks.foldl (fun b k =>
      match b with
      | none => some k
      | some b =>
        let d := (f32 k.1).cmp (f32 b.1)
        if 0 < d || (d == 0 && decide (k.2 < b.2)) then some k else some b) (none : Option (Word × Nat))
    match w with
    | some k => (k.1, k.2, false, false)
    | none => (0xFF800000#32, 0xFFFFFFFF, false, true)

/-! ### Rows of results -/

/-- Logical index of element (i, j). -/
def vectorIndex (v : VectorCmd) (i j : Nat) : Nat := v.index0 + i * v.indexRow + j

/-- A carry value of row `i`: its first word and its index word. -/
def carryAt (c : CoreRef) (o : RegionOp) (n i : Nat) (s : State) : Word × Nat :=
  let b := (s.core c).opBytes o (n * i) n
  (BitVec.ofNat 32 (fromLe (b.take 4)), fromLe ((b.drop 4).take 4))

/-- A row of results: FP32 values to be converted to the destination format, an index word where one follows, and what a draw found. -/
structure VRow where
  vals  : List Word
  index : Option Nat
  drawNan : Bool
  drawEmpty : Bool

/-- The results of row `i` of a command of `rows` rows. -/
def vectorRow (c : CoreRef) (v : VectorCmd) (rows : Nat) (s : State) (i : Nat) : VRow :=
  let src (j : Nat) : Word := sourceAt3 c v rows 0 i j s
  match v.vop with
  | .reduce .maxIndex carry =>
    let k := carry.map (fun o => let p := carryAt c o 8 i s; ((p.1, if p.2 = 0xFFFFFFFF then none else some p.2) : Cand))
    let r := maxIndexRow k ((List.range v.count).map src) (vectorIndex v i 0)
    { vals := [r.1], index := some r.2, drawNan := false, drawEmpty := false }
  | .reduce r carry =>
    { vals := [reduceRow r (carry.map (fun o => (carryAt c o 4 i s).1)) ((List.range v.count).map src)], index := none,
      drawNan := false, drawEmpty := false }
  | .draw beta stream greedy carry =>
    let ks := (List.range v.count).map (fun j =>
      (drawKey beta greedy (src j) (s.pepper stream 32 (vectorIndex v i j)), vectorIndex v i j))
    let ks := ks ++ (match carry with | some o => [carryAt c o 8 i s] | none => [])
    let r := drawRow ks
    { vals := [r.1], index := some r.2.1, drawNan := r.2.2.1, drawEmpty := r.2.2.2 }
  | _ => { vals := (List.range v.count).map (fun j => elementAt c v rows i j s), index := none, drawNan := false, drawEmpty := false }

/-- The E8M0 code of an FP8 destination: 0x7F when unspecified (R199). -/
def destScale (v : VectorCmd) : Byte := v.code.getD 0x7F

/-- The value that a destination element encodes: an FP8 element is the result divided by 2^(code − 127) (R199). -/
def destVal (v : VectorCmd) (x : Word) : Val :=
  if isFp8 v.dst.fmt then (f32 x).mul (.pow2 (127 - ((destScale v).toNat : Int))) else f32 x

/-- Does a vector command name the zero-group code or the NaN code for its FP8 destination, so that it writes element bits of zero (R87). DESIGN CHOICE (log 130). -/
def blankCode (v : VectorCmd) : Bool := isFp8 v.dst.fmt && (destScale v == 0 || destScale v == 0xFF)

/-- The code of destination element (i, j) (R87, R199, R205). -/
def destCode (v : VectorCmd) (s : State) (i j : Nat) (x : Word) : Nat :=
  let u := if roundsSr v then s.pepper v.roundStream 16 (vectorIndex v i j) else 0
  if blankCode v then 0 else (grid v.dst.fmt).encode (if v.dst.fmt == .fp32 then .rne else v.round) u (destVal v x)

/-- The bytes of a row of results: element codes, then the index word; a row-wise pair is FP32 and u32 whatever the format. -/
def rowBytes (v : VectorCmd) (codes : List Nat) (index : Option Nat) : List Byte :=
  match index with
  | some k => leBytes 4 (nth codes 0 0) ++ leBytes 4 k
  | none => packCodes (fmtWidth v.dst.fmt) codes

/-- The codes of a row before any upset. -/
def rowCodes (v : VectorCmd) (s : State) (i : Nat) (r : VRow) : List Nat :=
  match r.index with
  | some _ => r.vals.map (fun x => (Grid.fp32.encode .rne 0 (f32 x)))
  | none => (r.vals.zip (List.range r.vals.length)).map (fun x => destCode v s i x.2 x.1)

/-- Counts of a row of written codes (R224). -/
def rowStat (v : VectorCmd) (r : VRow) (codes : List Nat) : VxStat :=
  let g := match r.index with | some _ => Grid.fp32 | none => grid v.dst.fmt
  let mode := if v.dst.fmt == .fp32 then .rne else v.round
  { nan := (codes.filter (fun k => g.decode k == .nan)).length
    inf := (codes.filter (fun k => match g.decode k with | .inf _ => true | _ => false)).length
    sat := if r.index.isSome || v.dst.fmt == .fp32 || blankCode v then 0 else (r.vals.filter (fun x => g.saturates mode (destVal v x))).length
    drawNan := flag r.drawNan, drawEmpty := flag r.drawEmpty }

/-- Adds counts. -/
def VxStat.add (a b : VxStat) : VxStat :=
  { nan := a.nan + b.nan, inf := a.inf + b.inf, sat := a.sat + b.sat, drawNan := a.drawNan + b.drawNan, drawEmpty := a.drawEmpty + b.drawEmpty }

/-- Pepper draws of the command, row after row: scores (R221), then rounding (R205). -/
def vectorDraws (v : VectorCmd) (rows : Nat) : List (Nat × BitVec 24 × Nat) :=
  (List.range rows).flatMap (fun i =>
    (match v.vop with
     | .draw _ stream _ _ => (List.range v.count).map (fun j => (laneGroup 2 j, stream, vectorIndex v i j / 16))
     | _ => []) ++
    (if roundsSr v then
      (List.range (outCount v)).map (fun j => (laneGroup 2 j, v.roundStream, vectorIndex v i j / 32))
     else []))

/-- Flips of a row's codes: an upset, or the injection of point 5, which strikes the first element written. -/
def flipCodes (width i : Nat) (up : Option Upset) (inject : Bool) (b : Nat) (codes : List Nat) : List Nat :=
  let codes := match up with
    | some x => if x.at_ = .element ∧ x.row = i then codes.set x.index ((nth codes x.index 0 ^^^ x.mask.toNat) % 2 ^ width) else codes
    | none => codes
  if inject && i == 0 then codes.set 0 (nth codes 0 0 ^^^ 2 ^ b) else codes

/-- The effects of the table reads of a command: bytes 0 to 11 of each entry that an element selects (R214; log 15). -/
def tableReads (c : CoreRef) (v : VectorCmd) (rows : Nat) (s : State) : State :=
  match tableOf v.vop with
  | none => s
  | some (t, b) =>
    let n := match v.vop with | .tableTimes _ _ => 1 | _ => 0
    let picks := (List.range rows).flatMap (fun i => (List.range v.count).filterMap (fun j =>
      let x := sourceAt3 c v rows n i j s
      if isNan x then none else some (tableIndex b x).1))
    picks.eraseDups.foldl (fun s k => coreReadEffects (.engine c .vector) c t.space ((s.core c).opBase t + 16 * k) 12 s) s

/-- What a vector command writes counts in its status word and in CMP_VX_COUNT; nothing is written where its destination's writes are suppressed (R48, R224, R227). -/
def VxStat.written (x : VxStat) (b : Bool) : VxStat := if b then x else { x with nan := 0, inf := 0, sat := 0 }

/-- Carries out a vector command: its reads, results, writes, status, counts and draws, and what its check slot will compare (R378). -/
def vectorRun (c : CoreRef) (r : Running) (v : VectorCmd) (up : Option Upset) (s0 : State) : State :=
  let rows := r.q.cmd.repeats
  let s := tableReads c v rows (sourceFaults c v rows (corePath c .vector (strikesPath up) (beginReads c .vector r noErrs 0 s0)))
  let width := if rowResultBytes v.vop = 8 then 32 else fmtWidth v.dst.fmt
  let live := !suppressed r c v.dst.op
  let inject := live && injecting (s.coreUnit c) 5 s
  let b := injectBit width s
  let res := (List.range rows).map (fun i => vectorRow c v rows s i)
  let clean := (res.zip (List.range rows)).map (fun x => rowCodes v s x.2 x.1)
  let codes := (clean.zip (List.range rows)).map (fun x => flipCodes width x.2 up inject b x.1)
  let bytesOf (l : List (List Nat)) : List (List Byte) := (res.zip l).map (fun x => rowBytes v x.2 x.1.index)
  let out := bytesOf codes
  let stat := ((res.zip codes).foldl (fun a x => a.add (rowStat v x.1 x.2)) VxStat.empty).written live
  let s := drawCore c (vectorDraws v rows) (if inject then disarm s else s)
  let s := (out.zip (List.range rows)).foldl (fun s x => storeOp c r v.dst.op (x.2 * v.dst.rowStride) x.1 s) s
  let s := match v.dst.scales with
    | some o => storeOp c r o 0 (List.replicate (codesWritten v rows) (destScale v)) s
    | none => s
  let bad := (res.zip (List.range rows)).find? (fun x => x.1.drawNan)
  let s := match bad with
    | some x => raiseFor c .vector { code := 0x2052, unit := 0,
                                     addr := windowAddr c v.dst.op.space ((s.core c).opBase v.dst.op + x.2 * v.dst.rowStride) } s
    | none => s
  let sample : Sample :=
    { position := r.q.vpos, written := out.flatMap (fun x => x), clean := (bytesOf clean).flatMap (fun x => x),
      phys := bits (s.coreUnit c) 0 10, valid := true, injected := inject, extra := false }
  let s := s.modCore c (fun k => { k with samples := k.samples ++ [sample] })
  finish c .vector (modRun c .vector (fun r => { r with status := vxWord stat false }) (countVector stat s))

/-- Runs the vector command that core `c` has begun, if its operation is one that `ok` accepts. -/
def vectorStep (ok : VOp → Bool) (c : CoreRef) (up : Option Upset) (s : State) : Host.Outcome State Fault Refusal :=
  match (s.core c).run .vector with
  | some r =>
    match r.done, r.q.cmd.body with
    | false, .vector v => if ok v.vop then .next (vectorRun c r v up s) else .next s
    | _, _ => .next s
  | none => .next s

/-- Copy and convert operations. -/
def isCopyOp : VOp → Bool
  | .copy => true
  | .convert => true
  | .scale _ => true
  | .fill => true
  | _ => false

/-- Add, subtract, multiply. -/
def isBinaryOp : VOp → Bool
  | .add => true
  | .sub => true
  | .mul => true
  | _ => false

/-- VECTOR_COPY_CONVERT (R210). -/
def execVectorCopyConvert (c : CoreRef) (up : Option Upset) (s : State) : Host.Outcome State Fault Refusal := vectorStep isCopyOp c up s

/-- VECTOR_BINARY (R210). -/
def execVectorBinary (c : CoreRef) (up : Option Upset) (s : State) : Host.Outcome State Fault Refusal := vectorStep isBinaryOp c up s

/-- VECTOR_MIN_MAX (R622). -/
def execVectorMinMax (c : CoreRef) (up : Option Upset) (s : State) : Host.Outcome State Fault Refusal :=
  vectorStep (fun o => o == .min || o == .max) c up s

/-- VECTOR_COMPARE (R623). -/
def execVectorCompare (c : CoreRef) (up : Option Upset) (s : State) : Host.Outcome State Fault Refusal :=
  vectorStep (fun o => match o with | .compare _ => true | _ => false) c up s

/-- VECTOR_SELECT (R624). -/
def execVectorSelect (c : CoreRef) (up : Option Upset) (s : State) : Host.Outcome State Fault Refusal :=
  vectorStep (fun o => o == .select) c up s

/-- VECTOR_FMA (R204). -/
def execVectorFma (c : CoreRef) (up : Option Upset) (s : State) : Host.Outcome State Fault Refusal :=
  vectorStep (fun o => o == .fma) c up s

/-- VECTOR_DIVIDE_ROOT (R210). -/
def execVectorDivideRoot (c : CoreRef) (up : Option Upset) (s : State) : Host.Outcome State Fault Refusal :=
  vectorStep (fun o => o == .div || o == .sqrt || o == .rsqrt) c up s

/-- TABLE_FUNCTION (R216). -/
def execTableFunction (c : CoreRef) (up : Option Upset) (s : State) : Host.Outcome State Fault Refusal :=
  vectorStep (fun o => match o with | .table _ _ => true | _ => false) c up s

/-- TABLE_FUNCTION_TIMES_SOURCE: the first source times the table value of the second (R217). -/
def execTableFunctionTimesSource (c : CoreRef) (up : Option Upset) (s : State) : Host.Outcome State Fault Refusal :=
  vectorStep (fun o => match o with | .tableTimes _ _ => true | _ => false) c up s

/-- ROW_REDUCTION (R211). -/
def execRowReduction (c : CoreRef) (up : Option Upset) (s : State) : Host.Outcome State Fault Refusal :=
  vectorStep (fun o => match o with | .reduce _ _ => true | _ => false) c up s

/-- DRAW (R222). -/
def execDraw (c : CoreRef) (up : Option Upset) (s : State) : Host.Outcome State Fault Refusal :=
  vectorStep (fun o => match o with | .draw _ _ _ _ => true | _ => false) c up s

/-- OPERAND_CACHE_FILL (R208). -/
def execOperandCacheFill (c : CoreRef) (up : Option Upset) (s : State) : Host.Outcome State Fault Refusal :=
  vectorStep (fun o => o == .cacheFill) c up s

/-! ### Check slots (R356, R378, R379) -/

/-- Flips a byte of a list: an upset in the re-execution. -/
def flipByte (up : Option Upset) (l : List Byte) : List Byte :=
  match up with
  | some x => if x.at_ = .element then l.set x.index (nth l x.index 0 ^^^ x.mask.setWidth 8) else l
  | none => l

/-- Compares a re-execution on core `c` with the original on its neighbour: counts it, and on a difference raises 0x2080 against both physical cores; one that recurs on replay sends both cores to the confirmation test at the boundary (R361, R378). -/
def checkCompare (c : CoreRef) (x : Sample) (tag : Tag) (up : Option Upset) (s : State) : State :=
  let other := neighbour c
  let again := flipByte up x.clean
  let s := s.count Off.relCount 0
  if again = x.written then s
  else
    let s := s.count Off.relCount 1
    let syn := BitVec.ofNat 32 (Config.signature x.written ^^^ Config.signature again).toNat
    let t := c.tile.val
    let uo := unitId 1 t x.phys
    let uc := s.coreUnit c
    let again2080 := s.recurs 0x2080 uo || s.recurs 0x2080 uc
    let seq := s.mram.nextSeq
    let s := raise { code := 0x2080, unit := uo, tag := tag, epoch := (s.core other).placeEpoch, syn := syn, injected := x.injected } s
    let s := raise { code := 0x2080, unit := uc, tag := tag, epoch := (s.core c).placeEpoch, syn := syn, injected := x.injected } s
    if again2080 then
      let pair := [x.phys, bits uc 0 10]
      let mine (d : Due) : Bool := match d with | .suspects t' l _ _ _ => t' == t && l == pair | _ => false
      { s with
        due := if s.due.any mine then s.due else s.due ++ [.suspects t pair x.phys seq (!spared x.injected s)]
        unclassified := s.unclassified.map (fun u => if u.repeats 0x2080 uo || u.repeats 0x2080 uc then { u with permanent := true } else u)
        step := s.step.map (fun r => { r with faults := r.faults.filter (fun f => !(f.1 == 0x2080 && (f.2.1 == uo || f.2.1 == uc))) }) }
    else s

/-- CHECK_SLOT: re-executes the sampled command of the neighbouring core that the slot names (R378). -/
def execCheckSlot (c : CoreRef) (up : Option Upset) (s : State) : Host.Outcome State Fault Refusal :=
  match (s.core c).run .vector with
  | some r =>
    match r.done, r.q.cmd.body with
    | false, .checkSlot n =>
      let s' := match (s.core (neighbour c)).samples.find? (fun x => x.position == n && x.valid) with
        | some x => checkCompare c x r.q.tag up (corePath c .vector (strikesPath up) s)
        | none => s
      .next (finish c .vector s')
    | _, _ => .next s
  | none => .next s

/-- Has the partial norm of the running step left (R356). -/
def State.normLeft (s : State) : Bool := match s.step with | some r => r.normSent | none => true

/-- May firmware re-execute the vector command at a position of a core: FW_EXTRA is in force, the program is not of class strict (R511), and the position is one of one in 2^FW_RATE. DESIGN CHOICE (log 131): those that R514 would sample at that exponent, each once. -/
def firmwareMay (x : Sample) (s : State) : Bool :=
  bit (s.act Off.checkCtl) 0 && x.position % 2 ^ bits (s.act Off.checkCtl) 1 4 == 0 && !x.extra &&
  (match s.program with | some p => p.image.cls != 0 | none => false)

/-- FIRMWARE_CHECK_INSERT: Dealmeg re-executes a vector command of the neighbouring core in idle capacity; after the partial norm has left the check is abandoned without a result (R356, R379). -/
def execFirmwareCheckInsert (c : CoreRef) (position : Nat) (up : Option Upset) (s : State) : Host.Outcome State Fault Refusal :=
  match (s.core (neighbour c)).samples.find? (fun x => x.position == position && x.valid) with
  | some x =>
    if firmwareMay x s && !s.normLeft && ((s.core c).run .vector).isNone && s.placed c then
      let tag : Tag := BitVec.ofNat 48 (c.tile.val * 2 ^ 34 + c.core.val * 2 ^ 27)
      let s := s.modCore (neighbour c) (fun k => { k with samples := k.samples.map (fun y => if y = x then { y with extra := true } else y) })
      let s := if strikesPath up then raise { code := 0x208C, unit := s.coreUnit c, tag := tag, epoch := (s.core c).placeEpoch } s else s
      let s := checkCompare c x tag up s
      let s := (s.setField Off.detStatus 1 1 1).modStep (fun r => { r with timingVary := r.timingVary + 1 })
      .next (traceCore c { tag := tag, engine := 1, zero := false, timing := true, value := false, fault := false, check := true,
                           begun := s.now, entries := 0, unit := s.coreUnit c } s)
    else .next s
  | none => .next s

end Sys2Proof.Machine
end

