-- ==== Sys2Proof/Machine/Update.lean ====
section
/-! DEFINITION. The update units (07): norm phase, the decision to apply, the optimizer microtable, the encoder of
working copies and its fall-back, the residual, and what R368 and R369 do on a residue failure. -/

namespace Sys2Proof.Machine

/-! ### Units and raising -/

/-- The unit that carries out the commands of tile `t`: its own, or the next in service (R369). -/
def State.server (s : State) (t : Nat) : Option Nat :=
  ((List.range 4).map (fun d => (t + d) % 4)).find? (fun u => (s.uu u).inService)

/-- Tag of an update command: core field 0x7F, index the sequence number (R39, R246). -/
def updateTag (s : State) (t : Nat) (seq : BitVec 27) : Tag :=
  BitVec.ofNat 48 (s.progId.toNat * 2 ^ 36 + t * 2 ^ 34 + 0x7F * 2 ^ 27 + seq.toNat)

/-- Raises a record for the running command of tile `t`, against the unit that carries it out, at most one of each code (R272). -/
def raiseUU (t : Nat) (x : Cause) (s : State) : State :=
  report (.unit t) { x with unit := unitUU ((s.server t).getD t) } s

/-- Raises the codes of a list. -/
def raiseEach (t : Nat) (l : Refusals) (s : State) : State := l.foldl (fun s r => raiseUU t { code := r.1, unit := 0, addr := r.2 } s) s

/-- Applies `f` to the running command of a unit. -/
def modURun (t : Nat) (f : URunning → URunning) (s : State) : State :=
  let u := s.uu t
  s.setUU t { u with running := u.running.map f }

/-- Sets a bit of UU_STATUS for the step. -/
def setUUFlag (t b : Nat) (s : State) : State :=
  let u := s.uu t
  let fl := u.flags ||| 2 ^ b
  (s.setUU t { u with flags := fl }).setField (Off.uuStatus t) 32 5 fl

/-- Writes bytes to the stacks for the running command of tile `t`; they are whole words (R276). -/
def uuStore (t : Nat) (a : Dword) (data : List Byte) (s : State) : State :=
  if data.isEmpty then s else stackStore (.unit t) t a.toNat data s

/-- An FP32 value of the stacks. -/
def stackF32 (t a : Nat) (s : State) : Word := BitVec.ofNat 32 (fromLe (s.stackBytes t a 4))

/-! ### Geometry of an owned range -/

/-- Rows r0 to r1 − 1 and columns c0 to c1 − 1 of an owned range (R247, R267). -/
structure Owned where
  r0 : Nat
  r1 : Nat
  c0 : Nat
  c1 : Nat

/-- The rectangle of an owned range: whole rows, or a part of one row. -/
def owned (u : UpdateCmd) : Owned :=
  let r0 := u.first / max u.cols 1
  let r1 := (u.first + u.count - 1) / max u.cols 1 + 1
  if r1 - r0 ≤ 1 then { r0 := r0, r1 := r1, c0 := u.first % max u.cols 1, c1 := u.first % max u.cols 1 + u.count }
  else { r0 := r0, r1 := r1, c0 := 0, c1 := u.cols }

/-- First line and number of lines of a copy, and first position, length and logical length of each line: rows along K, or columns along N. -/
structure Lines where
  line0 : Nat
  lines : Nat
  pos0  : Nat
  len   : Nat
  full  : Nat

/-- The lines of a copy of the owned range. -/
def linesOf (u : UpdateCmd) (byCols : Bool) : Lines :=
  let o := owned u
  if byCols then { line0 := o.c0, lines := o.c1 - o.c0, pos0 := o.r0, len := o.r1 - o.r0, full := u.rows }
  else { line0 := o.r0, lines := o.r1 - o.r0, pos0 := o.c0, len := o.c1 - o.c0, full := u.cols }

/-- Logical index in the tensor of position `j` of line `i`, both counted from the range's first (R343). -/
def lineIndex (u : UpdateCmd) (byCols : Bool) (i j : Nat) : Nat :=
  let l := linesOf u byCols
  if byCols then (l.pos0 + j) * u.cols + (l.line0 + i) else (l.line0 + i) * u.cols + (l.pos0 + j)

/-- Layout of the copy or residual that a command writes (R509). -/
def writtenLayout (u : UpdateCmd) : Nat := if u.phase == .apply then u.copyLayout.val else u.outLayout.val

/-- Bytes of one piece of a copy of `l` in a layout: lines packed whole one after another, or one run (R324 to R326). -/
def copyBytes (layout w : Nat) (l : Lines) : Nat :=
  if l.lines = 0 then 0 else layoutBytes layout w l.lines l.len (packedBytes w l.len)

/-- Code of position `j` of line `i` of a stored copy of `l` at `base`. -/
def storedCode (t layout w : Nat) (l : Lines) (base : Nat) (s : State) (i j : Nat) : Nat :=
  layoutCode layout w l.lines l.len (packedBytes w l.len) (fun b => s.stackByte t (base + b)) i j

/-! ### Refusals (R248, R249) -/

/-- A range of the stacks that an update command uses. -/
structure UAccess where
  addr  : Dword
  len   : Nat
  read  : Bool
  write : Bool

/-- A range that is read. -/
def uRead (a : Dword) (n : Nat) : UAccess := { addr := a, len := n, read := true, write := false }

/-- A range that is written. -/
def uWrite (a : Dword) (n : Nat) : UAccess := { addr := a, len := n, read := false, write := true }

/-- A range that is read and written. -/
def uBoth (a : Dword) (n : Nat) : UAccess := { addr := a, len := n, read := true, write := true }

/-- Whole words of the fall-back area. -/
def fallbackRoom (u : UpdateCmd) : Nat := u.fallbackBytes / 4 * 4

/-- The ranges that a command uses (R247): an apply reads the old forward copy to count what it changes (R271), an emission of E reads the forward copy with its rung map and fall-back forms (R260). -/
def updateAccesses (u : UpdateCmd) : List UAccess :=
  let n := u.count
  let mb := fmtWidth u.momentFmt / 8
  let l := linesOf u u.byColumns
  let eb := copyBytes (writtenLayout u) (fmtWidth (qoutFmt u.enc.out)) l * qoutPieces u.enc.out
  let sb := l.lines * groupsOf l.len u.enc.group
  let slices := (l.lines + 255) / 256
  let rows : List UAccess := if u.enc.rowScale == .dynamic then [uWrite u.copyRowScales (4 * l.lines)] else []
  let supplied : List UAccess := if u.enc.rowScale == .supplied then [uRead u.rowScalesIn (4 * l.lines)] else []
  let saf : List UAccess :=
    if u.enc.saffron.isEmpty then [] else [uWrite u.saffronOut (l.lines * (64 * qoutPieces u.enc.saffronOut + 1))]
  let side := rows ++ supplied ++ saf
  match u.phase with
  | .norm => [uRead u.grad (4 * n), uWrite u.out 8]
  | .apply =>
    [uRead u.grad (4 * n), uBoth u.master (4 * n), uBoth u.m1 (mb * n), uBoth u.m2 (mb * n), uRead u.hyper 64,
     uBoth u.copy eb, uBoth u.copyScales sb, uWrite u.rungMap slices, uWrite u.fallback (fallbackRoom u)] ++ side
  | .emitBackward => [uRead u.master (4 * n), uWrite u.out eb, uWrite u.copyScales sb, uWrite u.rungMap slices, uWrite u.fallback (fallbackRoom u)] ++ side
  | .emitResidual =>
    let f := linesOf u false
    let p := u.copyEnc
    [uRead u.master (4 * n), uWrite u.out (eb + sb), uRead u.copy (copyBytes u.copyLayout.val (fmtWidth (qoutFmt p.out)) f * qoutPieces p.out),
     uRead u.copyScales (f.lines * groupsOf f.len p.group), uRead u.rungMap ((f.lines + 255) / 256), uRead u.fallback (fallbackRoom u)] ++
    (if p.rowScale == .dynamic then [uRead u.copyRowScales (4 * f.lines)] else []) ++
    (if p.rowScale == .supplied then [uRead u.rowScalesIn (4 * f.lines)] else []) ++ saf

/-- Do a range's bytes lie in one declared allocation. -/
def inAllocation (s : State) (a n : Nat) : Bool :=
  match s.program with
  | some p => p.image.allocations.any (fun x => decide (x.1 ≤ a) && decide (a + n ≤ x.1 + x.2))
  | none => false

/-- The quantizing form of an encoder, for the parameter checks of R109, R112, R341 and R625. -/
def encoderCmd (u : UpdateCmd) : QuantCmd :=
  let l := linesOf u u.byColumns
  { p := u.enc, saffronList := none, saffronCount := u.enc.saffron.length, src := ⟨.sp, 0, 0, 0, false⟩, srcFmt := .fp32, rows := l.lines, cols := l.len,
    stride := 4, turned := false, stored := none, firstIdx := l.pos0, rowLen := l.full, index0 := lineIndex u u.byColumns 0 0,
    indexRow := if u.byColumns then 1 else u.cols, indexCol := if u.byColumns then u.cols else 1, rowScale := none, chanMax := none,
    elemDst := none, layout := 0, elemStride := 1, pieceGap := 1, scaleDst := none, scaleLayout := 0, scaleStride := 1, rowScaleDst := none, saffronDst := none, stats := none }

/-- The microtable that an apply command names. -/
def microtable (s : State) (i : Nat) : Option (List MicroEntry) :=
  match s.program with | some p => p.image.microtables[i]? | none => none

/-- Does a statistics record lie outside its region, or name none (R618; log 124). -/
def statsOutside (u : UpdateCmd) (s : State) : Bool :=
  match u.phase, u.stats with
  | .norm, _ => false
  | _, some x => ((s.core x.1).region x.2.space x.2.region).isNone || decide ((s.core x.1).regionSize x.2 < x.2.offset + 64)
  | _, none => false

/-- Every refusal condition of an update command that holds (R248, R249, R272, R276, R619). -/
def updateRefusals (u : UpdateCmd) (repeated : Bool) (s : State) : Refusals :=
  let used := (updateAccesses u).filter (fun a => decide (0 < a.len))
  let outside := used.any (fun a => !(inAllocation s a.addr.toNat a.len))
  let noTable := u.phase == .apply && (microtable s u.micro).isNone
  let overlap := u.phase == .apply && (List.range 4).any (fun k =>
    (s.uu k).applied.any (fun r => r.1 == u.tensor && decide (r.2.1 < u.first + u.count) && decide (u.first < r.2.1 + r.2.2)))
  let f := linesOf u false
  when (outside || noTable || repeated) 0x2061 ++ when overlap 0x2062 ++ when (statsOutside u s) 0x2019 ++
  used.flatMap (fun a => (addrCodes false a.write a.addr a.len s).map (fun c => (c, a.addr))) ++
  (if u.phase == .norm then [] else quantRefusals (encoderCmd u)) ++
  streamCodes (u.phase == .emitResidual && u.copyEnc.rot != 0) u.copyEnc.rotStream 512 (f.pos0 + (f.len - 1))

/-! ### Push and begin -/

/-- Puts an update command into its unit's list (R246); a number already received marks the command as a repeat (R248). -/
def pushUpdate (c : CoreRef) (cmd : UpdateCmd) (s : State) : State :=
  let t := c.tile.val
  let u := s.uu t
  let q : UQ := { cmd := cmd, tag := updateTag s t cmd.seq, by_ := c, repeated := u.received.contains cmd.seq.toNat }
  s.setUU t { u with held := u.held ++ [q], received := if u.received.contains cmd.seq.toNat then u.received else u.received ++ [cmd.seq.toNat] }

/-- The command that a unit may begin next: the one whose number comes next, or a repeat. -/
def nextUpdate (u : UnitSt) : Option UQ := u.held.find? (fun q => q.repeated || q.cmd.seq.toNat == u.next)

/-- Is S finite. -/
def finite64 (v : Dword) : Bool := !(f64 v).special

/-- Does the step leave an update command without effect: skipped (R253), aborted without S (R265, R425), or no unit in service (R369). -/
def updateOff (t : Nat) (cmd : UpdateCmd) (s : State) : Bool :=
  (s.server t).isNone ||
  match s.step with
  | some r =>
    let bad := match r.globalNorm with | some n => !finite64 n | none => false
    r.noUpdates || ((r.skipped || bad) && cmd.phase != .norm)
  | none => true

/-- An apply command has begun other than as a no-operation: APPLIED of the step's entry is 1, and the state is no longer that of a completed step (R487, R516). -/
def markApplied (s : State) : State := { s.modStep (fun r => { r with applied := true }) with intact := false }

/-- Checks the region of a command's statistics record (R47 to R49; log 133): on a hazard the record is not written. -/
def checkStats (t : Nat) (u : UpdateCmd) (s : State) : State :=
  match u.phase, u.stats with
  | .norm, _ => s
  | _, none => s
  | _, some x =>
    match (s.core x.1).region x.2.space x.2.region, unitOf t with
    | some r, some me =>
      let addr := windowAddr x.1 x.2.space ((s.core x.1).opBase x.2)
      let hazard (code : Code) : State := modURun t (fun q => { q with hazard := true }) (raiseUU t { code := code, unit := 0, addr := addr } s)
      if x.2.epoch != r.epoch then hazard 0x2010
      else match r.owner with
        | none => s.modCore x.1 (fun v => v.setRegion x.2.space x.2.region { r with owner := some me })
        | some w => if w == me then s else hazard 0x2013
    | _, _ => s
where unitOf (t : Nat) : Option UnitRef := if h : t < 4 then some (.update ⟨t, h⟩) else none

/-- ENGINE_BEGIN_COMMAND on an update unit: the next number, once its waits hold on the pushing core's tokens (R30, R246). -/
def beginUpdate (t : Nat) (s : State) : State :=
  let u := s.uu t
  match u.running, nextUpdate u with
  | none, some q =>
    if waitsHold q.cmd.waits (s.core q.by_) then
      let s := s.modCore q.by_ (takeWaits q.cmd.waits)
      let noop := q.cmd.count == 0 || updateOff t q.cmd s
      let codes := if noop then [] else updateRefusals q.cmd q.repeated s
      let refused := !codes.isEmpty
      let run : URunning := { q := q, noop := noop, refused := refused, begun := s.now, done := noop || refused, hazard := false, raised := [] }
      let u := s.uu t
      let u := { u with held := u.held.erase q, running := some run, next := if q.repeated then u.next else u.next + 1,
                        applied := if q.cmd.phase == .apply && !noop && !refused then u.applied ++ [(q.cmd.tensor, q.cmd.first, q.cmd.count)] else u.applied }
      let s := raiseEach t codes (s.setUU t u)
      let s := if noop || refused then s else checkStats t q.cmd s
      let decided := match s.step with | some r => r.globalNorm.isSome | none => false
      let s := if q.cmd.phase == .apply && !noop && !refused && decided then markApplied s else s
      if refused then setUUFlag t 4 s else s
    else s
  | _, _ => s

/-! ### Norm (R250 to R254) -/

/-- Sum of squares of one chunk in FP32 (R250). -/
def chunkSum (xs : List Word) : Word := xs.foldl (fun a x => fadd a (fmul x x)) 0

/-- Partial norm of a range: chunk sums added in binary64 (R250). -/
def partialNorm (xs : List Word) : Dword :=
  (List.range ((xs.length + 4095) / 4096)).foldl (fun a k =>
    toF64 ((f64 a).add (f32 (chunkSum ((xs.drop (4096 * k)).take 4096))))) 0

/-- Is the running step invalid, so that the partial norm leaves as NaN (R354). -/
def State.stepInvalid (s : State) : Bool := match s.step with | some r => r.invalid | none => false

/-- Bytes that a slice of `n` lines of the forward copy takes in the fall-back area at a rung: its elements, scale codes and, under dynamic row scales, its own row scales, to whole words. DESIGN CHOICE (log 132). -/
def formBytes (p : QuantParams) (len n rung : Nat) : Nat :=
  if rung = 0 then 0
  else wordUp (n * (len * (if rung = 1 then 1 else 2) + groupsOf len p.group + (if rung = 1 && p.rowScale == .dynamic then 4 else 0)))

/-- The rung of a slice of the forward copy. -/
def rungOf (t : Nat) (u : UpdateCmd) (k : Nat) (s : State) : Nat := (s.stackByte t (u.rungMap.toNat + k)).toNat

/-- Offset of a slice's form in the fall-back area. -/
def formOffset (t : Nat) (u : UpdateCmd) (k : Nat) (s : State) : Nat :=
  let l := linesOf u false
  total ((List.range k).map (fun i => formBytes u.copyEnc l.len (min 256 (l.lines - 256 * i)) (rungOf t u i s)))

/-- The stack ranges that a command reads; of a fall-back area, the forms that it holds. -/
def readRanges (t : Nat) (u : UpdateCmd) (s : State) : List (Nat × Nat) :=
  (updateAccesses u).filterMap (fun a =>
    let n := if u.phase == .emitResidual && a.addr == u.fallback then formOffset t u (((linesOf u false).lines + 255) / 256) s else a.len
    if a.read && decide (0 < n) then some (a.addr.toNat, n) else none)

/-- A byte in flight on a path of the unit fails its parity, or the injection of point 2 fires: 0x208C (R348, R382). -/
def unitPath (t : Nat) (fails : Bool) (s : State) : State :=
  let s := if fails then raiseUU t { code := 0x208C, unit := 0 } s else s
  if injecting (unitUU ((s.server t).getD t)) 2 s then raiseUU t { code := 0x208C, unit := 0, injected := true } (disarm s) else s

/-- The effects of a command's reads: flipped bits and injections first, then what the words hold and what the paths lose. -/
def updateReads (t : Nat) (u : UpdateCmd) (path : Bool) (errs : ReadErrs) (s : State) : State :=
  let s := unitPath t path (applyFlips errs.flips s)
  let l := readRanges t u s
  readEffects (.unit t) t l errs.parity (injectStack t l s)

/-- UU_NORM: the partial norm of an owned range, written to the output buffer and added to what the unit holds (R250, R354). -/
def execUuNorm (x : UnitRead) (s : State) : Host.Outcome State Fault Refusal :=
  let t := x.tile
  let path := x.path
  let errs := x.errs
  match (s.uu t).running with
  | some r =>
    if !r.done && r.q.cmd.phase == .norm then
      let u := r.q.cmd
      let s := updateReads t u path errs s
      let xs := (List.range u.count).map (fun i => stackF32 t (u.grad.toNat + 4 * i) s)
      let p := if s.stepInvalid then nan64 else partialNorm xs
      let s := uuStore t u.out (leBytes 8 p.toNat) s
      let k := s.uu t
      .next (modURun t (fun r => { r with done := true }) (s.setUU t { k with norm := toF64 ((f64 k.norm).add (f64 p)) }))
    else .next s
  | none => .next s

/-- Clip factor (R252): formed in binary64, rounded once to FP32. -/
def clipFactor (tau : Word) (norm : Dword) : Word :=
  if (f32 tau).isZero || (f64 norm).isZero then one32
  else
    let root := BitVec.ofNat 64 (Grid.fp64.root (f64 norm))
    let q := Grid.fp64.decode (Grid.fp64.divide (f32 tau) (f64 root))
    if q == .nan then nan32 else if q.cmp (.num false 1 0) < 0 then toF32 q else one32

/-- Aborts the loaded program on the device (R60, R61): every queue emptied, tokens and epochs as at a boundary; the step completes with the program-error status. -/
def abortProgram (s : State) : State :=
  let s := s.modStep (fun r => { r with aborted := true })
  let clean (k : CoreSt) : CoreSt :=
    { k with queues := [], stalled := none, running := [], tokens := [], blocks := [], remote := none,
             regions := Sparse.mapVals (fun _ => none) (fun x => x.map (fun r => { r with epoch := 0, owner := none })) k.regions }
  { s with cores := Sparse.mapVals (fun _ => CoreSt.empty) clean s.cores,
           units := Sparse.mapVals (fun _ => UnitSt.empty) (fun u => { u with held := [], running := none }) s.units }

/-- The clip factor of the command that a unit applies, from S where it is known, with CLIPPED where it is below 1 (R252). -/
def setClip (t : Nat) (u : UpdateCmd) (s : State) : State :=
  match s.step with
  | some st =>
    match st.globalNorm with
    | some n =>
      let c := clipFactor (stackF32 t (u.hyper.toNat + 60) s) n
      let s := s.setUU t { s.uu t with clip := c }
      if (f32 c).cmp (.num false 1 0) < 0 then setUUFlag t 1 s else s
    | none => s
  | none => s

/-- NORM_DECISION: on a finite S the unit computes the clip factor of the command it is to apply; on any other it raises 0x2060 and the step is skipped, or the program aborted where its annotation says so (R252, R253, R515). -/
def execNormDecision (t : Fin 4) (v : Dword) (s : State) : Host.Outcome State Fault Refusal :=
  match s.step with
  | none => .next s
  | some st =>
    if st.noUpdates then .next s
    else
      let norm := st.globalNorm.getD v
      let s := s.modStep (fun r => { r with globalNorm := some norm, normSent := true })
      let u := s.uu t
      if finite64 norm then
        match u.running with
        | some r => .next (if r.q.cmd.phase == .apply then setClip t r.q.cmd s else s)
        | none => .next s
      else if u.flags.testBit 0 then .next s
      else
        let seq := s.mram.nextSeq
        let s := match u.running with
          | some _ => raiseUU t { code := 0x2060, unit := 0 } s
          | none => raise { code := 0x2060, unit := unitUU ((s.server t).getD t) } s
        let s := s.count Off.uuCount 1
        let abort := match s.program with | some p => p.image.abortNonfinite | none => false
        let s := setUUFlag t 0 (s.modStep (fun r => { r with skipped := true, causes := r.causes ++ [(if abort then 5 else 1, seq)] }))
        .next (if abort then abortProgram s else s)

/-! ### The microtable (R254 to R257) -/

/-- What the entries of a microtable read and write. -/
structure Micro where
  g  : Word
  w  : Word
  m1 : Word
  m2 : Word
  h  : List Word
  c  : Word
  t  : Word
  a  : List Word

/-- Value of a source (R255). -/
def Micro.src (m : Micro) : MicroSrc → Word
  | .g => m.g
  | .w => m.w
  | .m1 => m.m1
  | .m2 => m.m2
  | .h i => nth m.h i 0
  | .c => m.c
  | .t => m.t
  | .a i => nth m.a i 0

/-- The result of an operation (R254); a selected NaN is written as the canonical one, as by every entry (R81). -/
def microOp (op : MicroOp) (x y z : Word) : Word :=
  match op with
  | .add => fadd x y
  | .sub => fsub x y
  | .mul => fmul x y
  | .fma => ffma x y z
  | .div => fdiv x y
  | .sqrt => fsqrt x
  | .rsqrt => frsqrt x
  | .min => fmin x y
  | .max => fmax x y
  | .abs => toF32 (f32 x).abs
  | .neg => toF32 (f32 x).negate
  | .select => toF32 (f32 (if bit z 31 then y else x))

/-- Writes a result. -/
def Micro.put (m : Micro) (d : MicroDst) (v : Word) : Micro :=
  match d with
  | .w => { m with w := v }
  | .m1 => { m with m1 := v }
  | .m2 => { m with m2 := v }
  | .a i => { m with a := m.a.set i v }

/-- Runs every entry in table order; `flip` strikes the result of one entry, and the change it makes is returned (R368). -/
def runMicro (tbl : List MicroEntry) (flip : Option (Nat × Word)) (m : Micro) : Micro × Int :=
  ((tbl.zip (List.range tbl.length)).foldl (fun (x : Micro × Int) e =>
    let v := microOp e.1.op (x.1.src e.1.x) (x.1.src e.1.y) (x.1.src e.1.z)
    match flip with
    | some (k, mask) =>
      if k = e.2 then (x.1.put e.1.dst (v ^^^ mask), ((v ^^^ mask).toNat : Int) - (v.toNat : Int)) else (x.1.put e.1.dst v, x.2)
    | none => (x.1.put e.1.dst v, x.2)) (m, 0))

/-- Is an FP32 value finite. -/
def finite32 (w : Word) : Bool := !(f32 w).special

/-! ### The encoder (R148, R239 to R243) -/

/-- One encoding of a slice. -/
structure Encoded where
  rows : List QRow
  stat : QStat

/-- Parameters of the encoding of a slice at a rung (R242); rung 2 is split-wide of two pieces, which carries E8M0 scales and no row scales (R92, R109). -/
def rungParams (p : QuantParams) (rung : Nat) : QuantParams :=
  match rung with
  | 0 => { p with rung := 0 }
  | 1 => { p with out := .e4m3, rung := 1 }
  | _ => { p with out := .sw2, scaleFmt := .e8m0, rowScale := .none, rung := 2 }

/-- Encodes lines `i0` to `i0 + n − 1` with the values that `val` gives (R148). The rounding streams are those of R241; weight saffron rows draw from their own purpose (R342). -/
def encodeLines (t : Nat) (u : UpdateCmd) (byCols : Bool) (p : QuantParams) (val : Nat → Nat → Word) (i0 n : Nat) (s : State) : Encoded :=
  let l := linesOf u byCols
  let saf : BitVec 24 := BitVec.ofNat 24 (3 * 2 ^ 20 + bits p.roundStream 0 20)
  let rows := (List.range n).map (fun k =>
    let i := i0 + k
    let sup := if p.rowScale == .supplied then some (stackF32 t (u.rowScalesIn.toNat + 4 * i) s) else none
    let base := lineIndex u byCols i 0
    let step := if byCols then u.cols else 1
    quantRow p p.round (fun j => if p.round == .sr then s.pepper saf 16 (base + (nth p.saffron j 0 - l.pos0) * step) else 0) l.pos0 sup
      (fun j => s.pepper p.rotStream 1 (l.pos0 + j) == 1)
      (fun j => if p.round == .sr then s.pepper p.roundStream 16 (base + j * step) else 0)
      ((List.range l.len).map (val i)))
  { rows := rows, stat := sliceStat rows }

/-- Pepper draws of one encoding. -/
def encodeDraws (u : UpdateCmd) (byCols : Bool) (p : QuantParams) (i0 n : Nat) : List (Nat × BitVec 24 × Nat) :=
  let l := linesOf u byCols
  let saf : BitVec 24 := BitVec.ofNat 24 (3 * 2 ^ 20 + bits p.roundStream 0 20)
  (List.range n).flatMap (fun k =>
    (if p.rot = 0 then [] else (List.range l.len).map (fun j => (laneGroup 0 j, p.rotStream, (l.pos0 + j) / 512))) ++
    (if p.round == .sr && !splitOut p.out then
      (List.range l.len).map (fun j => (laneGroup 0 j, p.roundStream, lineIndex u byCols (i0 + k) j / 32)) else []) ++
    (if p.round == .sr && !splitOut p.saffronOut then
      (p.saffron.filter (fun i => decide (l.pos0 ≤ i) && decide (i < l.pos0 + l.len))).map (fun i =>
        (laneGroup 0 (i - l.pos0), saf, lineIndex u byCols (i0 + k) (i - l.pos0) / 32)) else []))

/-- Advice of an encoding. -/
def Encoded.advice (e : Encoded) (p : QuantParams) : Nat := qAdvice e.stat.nanBit false (e.stat.beyond p) p.rung.toNat

/-- The form of a slice in the fall-back area, at rung 1 or 2 (R242; log 132). -/
def Encoded.form (e : Encoded) (p : QuantParams) : List Byte :=
  padWords ((List.range (qoutPieces p.out)).flatMap (fun k => e.rows.flatMap (fun r => packCodes (fmtWidth (qoutFmt p.out)) (r.codes.map (fun c => nth c k 0)))) ++
    e.rows.flatMap (fun r => r.scales.map (fun v => BitVec.ofNat 8 v)) ++
    (if p.rowScale == .dynamic then e.rows.flatMap (fun r => leBytes 4 r.row.toNat) else []))

/-- What the encoder has done so far in a command: the lines at rung 0, the rungs kept, the forms in the fall-back area, and what it met. -/
structure CopyWork where
  s      : State
  rows   : List QRow
  rungs  : List Byte
  forms  : List Byte
  full   : Bool
  faults : Refusals

/-- The faults of an encoding (R148): where a NaN stood in the masters, and bad row scales. -/
def encodedFaults (u : UpdateCmd) (byCols : Bool) (i0 : Nat) (e : Encoded) : Refusals :=
  (e.rows.zip (List.range e.rows.length)).flatMap (fun x =>
    (match x.1.nanAt with
     | some j => [((0x2030 : Code), u.master + BitVec.ofNat 64 (4 * (lineIndex u byCols (i0 + x.2) j - u.first)))]
     | none => []) ++
    (match x.1.badRow with
     | some c => [(c, u.rowScalesIn + BitVec.ofNat 64 (4 * (i0 + x.2)))]
     | none => []))

/-- Draws and counts of one encoding of a slice. DESIGN CHOICE (log 134): each encoding of each slice counts as one quantizing command of its rung. -/
def countEncoding (t : Nat) (u : UpdateCmd) (byCols : Bool) (p : QuantParams) (e : Encoded) (i0 n : Nat) (s : State) : State :=
  countRung p (countGroups e.stat (drawUU ((s.server t).getD t) (encodeDraws u byCols p i0 n) s))

/-- Encodes one slice of 256 lines: its rung-0 form for the copy and, of a working copy, where ADVICE asks for it and it fits, a fall-back form (R242, R243). -/
def encodeSlice (t : Nat) (u : UpdateCmd) (byCols : Bool) (val : Nat → Nat → Word) (w : CopyWork) (k : Nat) : CopyWork :=
  let l := linesOf u byCols
  let i0 := 256 * k
  let n := min 256 (l.lines - i0)
  let p0 := rungParams u.enc 0
  let p1 := rungParams u.enc 1
  let p2 := rungParams u.enc 2
  let enc (p : QuantParams) : Encoded := encodeLines t u byCols p val i0 n w.s
  let e0 := enc p0
  let s := countEncoding t u byCols p0 e0 i0 n w.s
  let try1 := u.phase != .emitResidual && e0.advice p0 == 1
  let e1 := enc p1
  let s := if try1 then countEncoding t u byCols p1 e1 i0 n s else s
  let try2 := try1 && e1.advice p1 == 2
  let e2 := enc p2
  let s := if try2 then countEncoding t u byCols p2 e2 i0 n s else s
  let form := if try2 then e2.form p2 else e1.form p1
  let fits := decide (w.forms.length + form.length ≤ fallbackRoom u)
  let kept := try1 && fits
  { s := if kept then s.count Off.uuCount 3 else if try1 then s.count Off.uuCount 4 else s
    rows := w.rows ++ e0.rows, rungs := w.rungs ++ [if kept then (if try2 then 2 else 1) else 0],
    forms := if kept then w.forms ++ form else w.forms, full := w.full || (try1 && !fits), faults := w.faults ++ encodedFaults u byCols i0 e0 }

/-- Element bytes of one piece of a copy in a layout (R324 to R326). -/
def copyElems (layout w : Nat) (l : Lines) (rows : List QRow) (piece : Nat) : List Byte :=
  let code (r : QRow) (j : Nat) : Nat := nth (nth r.codes j []) piece 0
  if layout = 0 then rows.flatMap (fun r => packCodes w ((List.range l.len).map (code r)))
  else runBytes layout w l.lines l.len (fun i j => match rows[i]? with | some r => code r j | none => 0)

/-- Writes the statistics record of an encoder into a scratchpad: the counts of its rung-0 encodings. DESIGN CHOICE (log 133). -/
def writeStats (t : Nat) (u : UpdateCmd) (rows : List QRow) (s : State) : State :=
  let hazard := match (s.uu t).running with | some r => r.hazard | none => true
  match u.stats with
  | some x =>
    if hazard then s
    else windowStore x.1 x.2.space ((s.core x.1).opBase x.2) (statsBytes (rungParams u.enc 0) (extractedChannels (encoderCmd u)) (sliceStat rows)) s
  | none => s

/-- Encodes a copy of the owned range, slice by slice in ascending order, and writes what it makes: the elements in the copy's layout, piece after piece (R509), its scale codes, which lie behind the elements of a residual, the dynamic row scales, the saffron rows, the rung map, and the fall-back forms. -/
def encodeCopy (t : Nat) (u : UpdateCmd) (byCols : Bool) (dst : Dword) (val : Nat → Nat → Word) (s : State) : CopyWork :=
  let l := linesOf u byCols
  let x := (List.range ((l.lines + 255) / 256)).foldl (encodeSlice t u byCols val) { s := s, rows := [], rungs := [], forms := [], full := false, faults := [] }
  let elems := (List.range (qoutPieces u.enc.out)).flatMap (copyElems (writtenLayout u) (fmtWidth (qoutFmt u.enc.out)) l x.rows)
  let scales := x.rows.flatMap (fun r => r.scales.map (fun v => BitVec.ofNat 8 v))
  let residual := u.phase == .emitResidual
  let s := if residual then uuStore t dst (elems ++ scales) x.s else uuStore t u.copyScales scales (uuStore t dst elems x.s)
  let s := if u.enc.rowScale == .dynamic then uuStore t u.copyRowScales (x.rows.flatMap (fun r => leBytes 4 r.row.toNat)) s else s
  let s := if u.enc.saffron.isEmpty then s else uuStore t u.saffronOut (saffronBytes u.enc x.rows) s
  let s := if residual then s else uuStore t u.fallback x.forms (uuStore t u.rungMap x.rungs s)
  { x with s := writeStats t u x.rows s }

/-- Raises what the encoder found: 0x2063 with FALLBACK_FULL, and the codes of R148. -/
def copyFaults (t : Nat) (w : CopyWork) : State :=
  let s := raiseEach t w.faults w.s
  if w.full then setUUFlag t 2 (raiseUU t { code := 0x2063, unit := 0 } s) else s

/-! ### Apply (R256, R257, R368, R369) -/

/-- A moment read from the stacks. -/
def momentAt (t : Nat) (u : UpdateCmd) (base : Dword) (i : Nat) (s : State) : Word :=
  let w := fmtWidth u.momentFmt / 8
  wideWord u.momentFmt (s.stackBytes t (base.toNat + w * i) w)

/-- Code of moment `k` of parameter `i` in the command's format, rounded under R98. DESIGN CHOICE (log 23): the bits of SR, for which the manual names no stream, are an unknown function of what R345 lets bits depend on. -/
def momentCode (u : UpdateCmd) (s : State) (k i : Nat) (x : Word) : Nat :=
  if u.momentFmt == .fp32 then x.toNat
  else (grid u.momentFmt).encode u.momentRound (if u.momentRound == .sr then (Config.momentBits s.seed s.stepNo u.tensor k (u.first + i)).toNat else 0) (f32 x)

/-- One parameter after an apply: its master, its moments as stored bytes, and whether it was kept (R257). -/
structure Param where
  w    : Word
  m1   : List Byte
  m2   : List Byte
  kept : Bool

/-- Runs the microtable on parameter `i` of the range. -/
def applyParam (t : Nat) (u : UpdateCmd) (tbl : List MicroEntry) (clip : Word) (flip : Option (Nat × Word)) (s : State) (i : Nat) : Param × Int :=
  let w := stackF32 t (u.master.toNat + 4 * i) s
  let mb := fmtWidth u.momentFmt / 8
  let m : Micro :=
    { g := stackF32 t (u.grad.toNat + 4 * i) s, w := w, m1 := momentAt t u u.m1 i s, m2 := momentAt t u u.m2 i s,
      h := (List.range 16).map (fun k => stackF32 t (u.hyper.toNat + 4 * k) s), c := clip, t := toF32 (.ofInt (Int.ofNat u.step.toNat) 0),
      a := List.replicate 8 0 }
  let r := runMicro tbl flip m
  if finite32 r.1.w && finite32 r.1.m1 && finite32 r.1.m2 then
    ({ w := r.1.w, m1 := leBytes mb (momentCode u s 0 i r.1.m1), m2 := leBytes mb (momentCode u s 1 i r.1.m2), kept := false }, r.2)
  else
    ({ w := w, m1 := s.stackBytes t (u.m1.toNat + mb * i) mb, m2 := s.stackBytes t (u.m2.toNat + mb * i) mb, kept := true }, r.2)

/-- Retires the unit that serves tile `t`, with 0x2066, and with 0x2084 when it was the last in service (R368, R369). -/
def retireUnit (t : Nat) (injected : Bool) (s : State) : State :=
  let v := (s.server t).getD t
  let s := raiseUU t { code := 0x2066, unit := 0, cls := some 2, injected := injected } (s.count Off.relCount 4)
  let s := s.setUU v { s.uu v with inService := false }
  if (s.server t).isNone then report (.unit t) { code := 0x2084, unit := unitUU v } s else s

/-- Elements of the forward copy of which an apply changes the code of any piece (R271). -/
def drift (t : Nat) (u : UpdateCmd) (old new : State) : Nat :=
  let l := linesOf u u.byColumns
  let w := fmtWidth (qoutFmt u.enc.out)
  let code (s : State) (i j k : Nat) : Nat := storedCode t u.copyLayout.val w l (u.copy.toNat + k * copyBytes u.copyLayout.val w l) s i j
  total ((List.range l.lines).map (fun i => ((List.range l.len).filter (fun j =>
    (List.range (qoutPieces u.enc.out)).any (fun k => code old i j k != code new i j k))).length))

/-- Writes the masters and moments of parameters from the first of the range on, and counts them (R257, R271). -/
def applyParams (t : Nat) (u : UpdateCmd) (ps : List Param) (s : State) : State :=
  let s := uuStore t u.master (ps.flatMap (fun p => leBytes 4 p.w.toNat)) s
  let s := uuStore t u.m1 (padMoments u.m1 (ps.flatMap (fun p => p.m1)) s) s
  let s := uuStore t u.m2 (padMoments u.m2 (ps.flatMap (fun p => p.m2)) s) s
  let kept := (ps.filter (fun p => p.kept)).length
  let s := (s.count Off.uuCount 0 (ps.length - kept)).count Off.uuCount 5 kept
  if kept = 0 then s else setUUFlag t 3 (raiseUU t { code := 0x2064, unit := 0 } s)
where padMoments (a : Dword) (l : List Byte) (s : State) : List Byte := l ++ s.stackBytes t (a.toNat + l.length) (wordUp l.length - l.length)

/-- Writes the results of an apply, its copy, counts and faults. -/
def applyWrite (t : Nat) (u : UpdateCmd) (ps : List Param) (s0 : State) : State :=
  let s := applyParams t u ps s0
  let val (i j : Nat) : Word := (nth ps (lineIndex u u.byColumns i j - u.first) { w := 0, m1 := [], m2 := [], kept := false }).w
  let s := copyFaults t (encodeCopy t u u.byColumns u.copy val s)
  s.count Off.uuCount 2 (drift t u s0 s)

/-- Carries out an apply command. A residue failure on a parameter (a hardware upset, log 8, or the injection of point 6) recomputes it: agreement raises 0x2065, disagreement (`again`) retires the unit and the next computes the parameter (R368). Where none is left, only the parameters before it are written (R369; log 135). -/
def applyRun (t : Nat) (r : URunning) (tbl : List MicroEntry) (up : Option Upset) (again : Bool) (errs : ReadErrs) (s : State) : State :=
  let u := r.q.cmd
  let s := setClip t u (updateReads t u (strikesPath up) errs s)
  let clip := (s.uu t).clip
  let v := (s.server t).getD t
  let hit := up.filter (fun x => x.at_ == .element)
  let inject := injecting (unitUU v) 6 s
  let flipAt : Option (Nat × Nat × Word) :=
    match hit with
    | some x => some (x.index, x.row, x.mask.setWidth 32)
    | none => if inject then some (0, 0, BitVec.ofNat 32 (2 ^ injectBit 32 s)) else none
  let s := if inject then disarm s else s
  let struck := flipAt.map (fun f => applyParam t u tbl clip (some (f.2.1, f.2.2)) s f.1)
  let found := match struck with | some x => x.2 % 3 != 0 | none => false
  let ps := (List.range u.count).map (fun i => (applyParam t u tbl clip none s i).1)
  let ps := match flipAt, struck with
    | some f, some x => if found then ps else ps.set f.1 x.1
    | _, _ => ps
  let s :=
    if found then
      if hit.isSome && again then retireUnit t false s
      else raiseUU t { code := 0x2065, unit := 0, cls := some 1, injected := inject && hit.isNone } (s.count Off.relCount 3)
    else s
  modURun t (fun r => { r with done := true })
    (if (s.server t).isNone then applyParams t u (ps.take (match flipAt with | some f => f.1 | none => 0)) s else applyWrite t u ps s)

/-- UU_APPLY: runs the microtable for each parameter and writes masters, moments and the forward copy (R256); nothing when the step is skipped (R253). -/
def execUuApply (t : Fin 4) (x : Conditions) (again : Bool) (s : State) : Host.Outcome State Fault Refusal :=
  let up := x.up
  let errs := x.errs
  match (s.uu t).running with
  | some r =>
    if !r.done && r.q.cmd.phase == .apply then
      if updateOff t r.q.cmd s then .next (modURun t (fun r => { r with done := true, noop := true }) s)
      else match microtable s r.q.cmd.micro with
        | some tbl => .next (applyRun t r tbl up again errs (markApplied s))
        | none => .next s
    else .next s
  | none => .next s

/-! ### Emissions (R240, R260) -/

/-- UU_EMIT_BACKWARD_COPY: the unit's part of the backward copy, from the current masters (R240). -/
def execUuEmitBackwardCopy (x : UnitRead) (s : State) : Host.Outcome State Fault Refusal :=
  let t := x.tile
  let path := x.path
  let errs := x.errs
  match (s.uu t).running with
  | some r =>
    if !r.done && r.q.cmd.phase == .emitBackward then
      if updateOff t r.q.cmd s then .next (modURun t (fun r => { r with done := true, noop := true }) s)
      else
        let u := r.q.cmd
        let s := updateReads t u path errs s
        let val (i j : Nat) : Word := stackF32 t (u.master.toNat + 4 * (lineIndex u u.byColumns i j - u.first)) s
        .next (modURun t (fun r => { r with done := true }) (copyFaults t (encodeCopy t u u.byColumns u.out val s)))
    else .next s
  | none => .next s

/-- Where the forward copy of a tensor keeps line `i` as stored: its rung, its element format with its pieces, where the codes of a piece's position and of a group lie, and its row scale with the address of it. -/
structure CopyLine where
  fmt      : Fmt
  pieces   : Nat
  scaleFmt : ScaleFmt
  code     : Nat → Nat → Nat
  scaleAt  : Nat → Nat
  rowAt    : Option Nat

/-- Line `i` of the forward copy, at the rung its slice keeps (R242). -/
def copyLine (t : Nat) (u : UpdateCmd) (s : State) (i : Nat) : CopyLine :=
  let l := linesOf u false
  let p := u.copyEnc
  let g := groupsOf l.len p.group
  let k := i / 256
  let n := min 256 (l.lines - 256 * k)
  let rung := rungOf t u k s
  let supplied : Option Nat := if p.rowScale == .supplied then some (u.rowScalesIn.toNat + 4 * i) else none
  let w := fmtWidth (qoutFmt p.out)
  if rung = 0 then
    { fmt := qoutFmt p.out, pieces := qoutPieces p.out, scaleFmt := p.scaleFmt
      code := fun pc j => storedCode t u.copyLayout.val w l (u.copy.toNat + pc * copyBytes u.copyLayout.val w l) s i j
      scaleAt := fun grp => u.copyScales.toNat + i * g + grp
      rowAt := if p.rowScale == .dynamic then some (u.copyRowScales.toNat + 4 * i) else supplied }
  else
    let off := u.fallback.toNat + formOffset t u k s
    let m := i - 256 * k
    let pieces := if rung = 1 then 1 else 2
    { fmt := .e4m3, pieces := pieces, scaleFmt := if rung = 1 then p.scaleFmt else .e8m0
      code := fun pc j => (s.stackByte t (off + pc * n * l.len + m * l.len + j)).toNat
      scaleAt := fun grp => off + pieces * n * l.len + m * g + grp
      rowAt := if rung = 1 then (if p.rowScale == .dynamic then some (off + n * l.len + n * g + 4 * m) else supplied) else none }

/-- The value under R90 of position `j` of line `i` of the forward copy as stored; the pieces of a split-wide one carry weights 2^−4k (R92). -/
def copyValue (t : Nat) (u : UpdateCmd) (s : State) (i j : Nat) : Val :=
  let c := copyLine t u s i
  let sc := s.stackByte t (c.scaleAt (if u.copyEnc.group = 0 then 0 else j / u.copyEnc.group))
  let row := c.rowAt.map (fun a => stackF32 t a s)
  (List.range c.pieces).foldl (fun v pc => v.add ((elementValue (grid c.fmt) c.scaleFmt (c.code pc j) sc row).mul (.pow2 (-4 * (pc : Int))))) (.num false 0 0)

/-- Reserved scale codes and invalid row scales of the forward copy that an emission of E reads: 0x2020 and 0x2021 (R91). -/
def copyScaleFaults (t : Nat) (u : UpdateCmd) (s : State) : Refusals :=
  let l := linesOf u false
  (List.range l.lines).flatMap (fun i =>
    let c := copyLine t u s i
    (match c.rowAt with
     | some a => if rowScaleInvalid (stackF32 t a s) then [((0x2021 : Code), BitVec.ofNat 64 a)] else []
     | none => []) ++
    (List.range (groupsOf l.len u.copyEnc.group)).filterMap (fun k =>
      if scaleMeaning c.scaleFmt (s.stackByte t (c.scaleAt k)) == .reserved then some ((0x2020 : Code), BitVec.ofNat 64 (c.scaleAt k)) else none))

/-- Removes the rotation of R120 from a block exactly: the transform is its own inverse up to n × 2^−h. -/
def unrotate (n : Nat) (neg : Nat → Bool) (ys : List Val) (j : Nat) : Val :=
  let sum := (ys.zip (List.range ys.length)).foldl (fun (v : Val) y =>
    let odd := (List.range 8).foldl (fun b i => b != ((Nat.land y.2 j).testBit i)) false
    v.add (if odd then y.1.negate else y.1)) (.num false 0 0)
  let v := sum.mul (.pow2 ((rotH n : Int) - (Nat.log2 n : Int)))
  if neg j then v.negate else v

/-- The value of the forward copy at line `i`, position `j`, unrotated (R260). -/
def copyUnrotated (t : Nat) (u : UpdateCmd) (s : State) (i j : Nat) : Val :=
  let n := u.copyEnc.rot
  if n = 0 then copyValue t u s i j
  else
    let l := linesOf u false
    let b := j / n * n
    unrotate n (fun k => s.pepper u.copyEnc.rotStream 1 (l.pos0 + b + k) == 1)
      ((List.range n).map (fun k => if b + k < l.len then copyValue t u s i (b + k) else .num false 0 0)) (j - b)

/-- Pepper draws of the sign bits that an emission of E takes to unrotate the forward copy (R119, R344). -/
def unrotateDraws (u : UpdateCmd) : List (Nat × BitVec 24 × Nat) :=
  let l := linesOf u false
  if u.copyEnc.rot = 0 then []
  else (List.range l.lines).flatMap (fun _ => (List.range l.len).map (fun j => (laneGroup 0 j, u.copyEnc.rotStream, (l.pos0 + j) / 512)))

/-- The residual W − Ŵ at line `i`, position `j` of the forward copy, rounded once to FP32 (R260; log 24). -/
def residualAt (t : Nat) (u : UpdateCmd) (s : State) (i j : Nat) : Word :=
  let w := stackF32 t (u.master.toNat + 4 * (lineIndex u false i j - u.first)) s
  toF32 ((f32 w).add (copyUnrotated t u s i j).negate)

/-- UU_EMIT_RESIDUAL: the residual E of the owned range as a split-wide tensor of two pieces, grouped along N or K (R260). -/
def execUuEmitResidual (x : UnitRead) (s : State) : Host.Outcome State Fault Refusal :=
  let t := x.tile
  let path := x.path
  let errs := x.errs
  match (s.uu t).running with
  | some r =>
    if !r.done && r.q.cmd.phase == .emitResidual then
      if updateOff t r.q.cmd s then .next (modURun t (fun r => { r with done := true, noop := true }) s)
      else
        let u := r.q.cmd
        let s := updateReads t u path errs s
        let s := drawUU ((s.server t).getD t) (unrotateDraws u) (raiseEach t (copyScaleFaults t u s) s)
        let val (i j : Nat) : Word := if u.byColumns then residualAt t u s j i else residualAt t u s i j
        .next (modURun t (fun r => { r with done := true }) (copyFaults t (encodeCopy t u u.byColumns u.out val s)))
    else .next s
  | none => .next s

end Sys2Proof.Machine
end

