-- ==== Sys2Proof/Machine/Queue.lean ====
section
/-! DEFINITION. The command model (02): pushing, beginning, releasing, completing and timing out. -/

namespace Sys2Proof.Machine

/-! ### Pushing (R27, R39, R41) -/

/-- Tag of a core's next push. -/
def nextTag (c : CoreRef) (s : State) : Tag :=
  BitVec.ofNat 48 (s.progId.toNat * 2 ^ 36 + c.tile.val * 2 ^ 34 + c.core.val * 2 ^ 27 + (s.core c).index.toNat)

/-- Counts a push: the command index advances (R41). -/
def countPush (c : CoreRef) (s : State) : State := s.modCore c (fun k => { k with index := k.index + 1 })

/-- Commands that an engine queue holds. -/
def queueRoom : Nat := 32

/-- Puts a command into an engine queue with its tag. -/
def enqueue (c : CoreRef) (e : Engine) (cmd : EngineCmd) (s : State) : State :=
  let tag := nextTag c s
  let isV := e == .vector
  countPush c (s.modCore c (fun k =>
    { (k.setQueue e (k.queue e ++ [{ cmd := cmd, tag := tag, vpos := k.vcount }])) with vcount := k.vcount + flag isV }))

/-- A result of the control core's arithmetic unit fails its residue check, 0x208D: of itself (R348), or by the injection of point 7 (R382). -/
def controlResidue (c : CoreRef) (fails : Bool) (s : State) : State :=
  let x : Cause := { code := 0x208D, unit := s.coreUnit c, tag := nextTag c s, epoch := (s.core c).placeEpoch }
  if injecting (s.coreUnit c) 7 s then raise { x with injected := true } (disarm s)
  else if fails then raise x s else s

/-- May a control core push: a step runs on it and it is not stalled (R27). -/
def canPush (c : CoreRef) (s : State) : Bool :=
  (match s.step with | some r => !r.aborted | none => false) && s.placed c && (s.core c).stalled.isNone

/-- PUSH_COMMAND: the command enters its queue, or the control core stalls when the queue is full (R27); an update command goes to the tile's update unit (R246). -/
def execPushCommand (c : CoreRef) (x : PushRun) (s : State) : Host.Outcome State Fault Refusal :=
  let p := x.pushed
  let residue := x.residue
  if canPush c s then
    let s := controlResidue c residue s
    match p with
    | .engine e cmd =>
      if ((s.core c).queue e).length < queueRoom then .next (enqueue c e cmd s)
      else .next (s.modCore c (fun k => { k with stalled := some (e, cmd) }))
    | .update cmd => .next (countPush c (pushUpdate c cmd s))
  else .next s

/-- PUSH_RESUME: an entry has freed, and the stalled push takes place (R27). -/
def execPushResume (c : CoreRef) (s : State) : Host.Outcome State Fault Refusal :=
  match (s.core c).stalled with
  | some (e, cmd) =>
    if ((s.core c).queue e).length < queueRoom then
      .next (enqueue c e cmd (s.modCore c (fun k => { k with stalled := none })))
    else .next s
  | none => .next s

/-! ### Beginning (R28, R30) -/

/-- ENGINE_BEGIN_COMMAND: once the waits of the command at the head of the queue hold, they are taken in one step and the command begins. -/
def execEngineBeginCommand (u : UnitRef) (s : State) : Host.Outcome State Fault Refusal :=
  match u with
  | .update t => .next (beginUpdate t s)
  | .core c e =>
    let k := s.core c
    match k.run e, k.queue e with
    | none, q :: rest =>
      if waitsHold q.cmd.waits k then
        .next (beginCmd c e q (s.modCore c (fun k => (takeWaits q.cmd.waits k).setQueue e rest)))
      else .next s
    | _, _ => .next s

/-! ### Releases (R31, R46, R50, R51) -/

/-- Has the command released this region: an operand of it whose check held has carried out its mark. -/
def regionReleased (c : CoreRef) (r : Running) (k : CoreRef) (o : RegionOp) : Bool :=
  r.released.any (fun n => !r.badReads.contains n && (match (nth r.accesses n accNone).named c with
    | some (d, p, _) => d == k && p.space == o.space && p.region == o.region
    | none => false))

/-- Advances a region's epoch and opens it for writing (R46). -/
def advanceEpoch (c : CoreRef) (o : RegionOp) (s : State) : State :=
  match (s.core c).region o.space o.region with
  | some g => s.modCore c (fun k => k.setRegion o.space o.region { g with epoch := g.epoch + 1, owner := none })
  | none => s

/-- Carries out the release mark of operand `n`: the epoch advances once for the region, unless the operand's check failed, which raises 0x2012 (R51); the posts tied to the release take effect (R31). -/
def releaseOperand (c : CoreRef) (e : Engine) (n : Nat) (s : State) : State :=
  match (s.core c).run e with
  | none => s
  | some r =>
    let a := nth r.accesses n accNone
    match a.named c with
    | none => s
    | some (k, o, write) =>
      if write || !o.release || r.released.contains n then s
      else
        let s :=
          if r.badReads.contains n then raiseCheck c e r.q.cmd r.q.tag 0x2012 (a.first c s) s
          else if regionReleased c r k o then s
          else advanceEpoch k o s
        let s := modRun c e (fun r => { r with released := r.released ++ [n] }) s
        postTokens c ((r.q.cmd.posts.filter (fun p => p.atRelease == some n)).map (fun p => p.tok)) r.q.tag s

/-- EPOCH_RELEASE: the last read of a release-marked operand has completed (R46). -/
def execEpochRelease (c : CoreRef) (e : Engine) (operand : Nat) (s : State) : Host.Outcome State Fault Refusal :=
  match (s.core c).run e with
  | some r => if r.done && !r.noop && !r.refused then .next (releaseOperand c e operand s) else .next s
  | none => .next s

/-! ### Completion (R32, R33, R58) -/

/-- Writes the status words of a completing command (R141, R187, R225). -/
def writeStatus (c : CoreRef) (r : Running) (s : State) : State :=
  let k := coreKey c
  let qz (p : Nat) (s : State) : State := match r.quant with | some w => s.setReg (Off.qzStatus k p) w | none => s
  match r.q.cmd.body with
  | .product _ => qz 0 (s.setReg (Off.mxStatus k) r.status)
  | .saffron _ => qz 0 (s.setReg (Off.mxStatus k) r.status)
  | .exact _ => qz 0 (s.setReg (Off.mxStatus k) r.status)
  | .vector _ => s.setReg (Off.vxStatus k) r.status
  | .quantize _ => qz 1 s
  | _ => s

/-- Posts to token counters of other cores (R33), which a core that is not placed drops (R371). -/
def remotePosts (l : List (CoreRef × TokAmt)) (tag : Tag) (s : State) : State :=
  (l.map (fun x => x.1)).eraseDups.foldl (fun s d =>
    let mine := (l.filter (fun x => x.1 == d)).map (fun x => x.2)
    if s.placed d then postTokens d mine tag s else dropWrite d s) s

/-- Notes that a command marked may-vary has run (R66). -/
def noteMark (m : Mark) (s : State) : State :=
  match m with
  | .none => s
  | .timing => (s.setField Off.detStatus 1 1 1).modStep (fun r => { r with timingVary := r.timingVary + 1 })
  | .value => (s.setField Off.detStatus 0 1 1).modStep (fun r => { r with valueVary := r.valueVary + 1 })

/-- The mark under which a command runs: a read of a remote address carries the mark for timing (R66, R294, R296). -/
def effectiveMark (r : Running) : Mark :=
  let remote := match r.q.cmd.body with
    | .stackRead a _ _ _ => bit a 63
    | .remoteRead a _ _ => bit a 63
    | .layout _ _ _ => bit (copyDesc r.copy).src 63
    | _ => false
  if r.q.cmd.mark == .none && remote then .timing else r.q.cmd.mark

/-- Ends the exact block of a command with the close mark as it completes (R162): its gradient block has closed (R263). DESIGN CHOICE (log 136): a close mark counts on a refused command and on a no-operation too, an open mark on neither. -/
def closeBlock (c : CoreRef) (r : Running) (s : State) : State :=
  match r.q.cmd.body with
  | .exact p =>
    if p.closes then
      let s := s.modCore c (fun k => { k with blocks := k.blocks.filter (fun b => b.region != regionKey p.lr.space p.lr.region) })
      s.modStep (fun x => { x with closed := x.closed ++ [p.block] })
    else s
  | _ => s

/-- Is the loaded program in full redundancy (R380). -/
def State.redundant (s : State) : Bool := match s.program with | some p => p.image.fullRedundancy | none => false

/-- The second physical core of a logical core under full redundancy: the carrier of the logical core ⌊CORES / 2⌋ above it, which the program does not use (R380, R502, R503; log 48). -/
def State.second (s : State) (c : CoreRef) : Option Nat :=
  match s.program with
  | some p => if p.image.fullRedundancy then s.carrier c.tile.val (c.core.val + bits p.image.shape 24 8 / 2) else none
  | none => none

/-- Points of R382 that a command reaches in a core: its reads and data paths, and what its engine forms. -/
def pointsOf (r : Running) : List Nat :=
  if r.noop || r.refused then []
  else match r.q.cmd.body with
    | .product _ | .exact _ | .saffron _ => [0, 1, 2, 3, 4]
    | .vector _ => [0, 1, 2, 5]
    | _ => [0, 1, 2]

/-- An armed injection strikes the second physical core while both execute a command (R380, R382; log 48): a stored bit is corrected there, a byte in flight fails its parity, and a changed value tells the two executions apart, with the syndrome that this answers. -/
def strikeSecond (c : CoreRef) (r : Running) (s : State) : Option Word × State :=
  match s.second c with
  | none => (none, s)
  | some p =>
    let u := unitId 1 c.tile.val p
    match (pointsOf r).find? (fun n => injecting u n s) with
    | none => (none, s)
    | some n =>
      let s := disarm s
      let epoch := (s.core c).placeEpoch
      if n < 2 then (none, s)
      else if n = 2 then (none, raise { code := 0x208C, unit := u, tag := r.q.tag, epoch := epoch, injected := true } s)
      else (some (s.fresh.setWidth 32), s.skipFree 1)

/-- The comparison of full redundancy, before the posts (R380): the two executions differ where a hardware upset made them (log 48) or an injection at the second core did. -/
def redundancyCompare (c : CoreRef) (r : Running) (sigDiff : Option Word) (s : State) : State :=
  let x := strikeSecond c r s
  let s := x.2
  match (if s.redundant then sigDiff else none), x.1 with
  | none, none => s
  | w, v =>
    raise { code := 0x2081, unit := s.coreUnit c, tag := r.q.tag, epoch := (s.core c).placeEpoch, syn := (w.orElse (fun _ => v)).getD 0,
            injected := w.isNone } (s.count Off.relCount 2)

/-- The posts that remain at completion: those of the completion point, and any release post not yet made. -/
def completionPosts (r : Running) : List TokAmt :=
  (r.q.cmd.posts.filter (fun p => match p.atRelease with | none => true | some n => !r.released.contains n)).map (fun p => p.tok)

/-- Completes a command of an engine. -/
def completeCore (c : CoreRef) (e : Engine) (sigDiff : Option Word) (s : State) : State :=
  match (s.core c).run e with
  | none => s
  | some r =>
    if !r.done then s
    else
      let s := redundancyCompare c r sigDiff s
      let s := (List.range r.accesses.length).foldl (fun s n => releaseOperand c e n s) s
      let r := ((s.core c).run e).getD r
      let s := closeBlock c r (writeStatus c r s)
      let s := postTokens c (completionPosts r) r.q.tag s
      let s := remotePosts r.q.cmd.remote r.q.tag s
      let mark := effectiveMark r
      let s := noteMark mark s
      let check := match r.q.cmd.body with | .checkSlot _ => true | _ => false
      let s := traceCore c { tag := r.q.tag, engine := engineNo e, zero := r.noop, timing := mark == .timing,
                             value := mark == .value, fault := r.refused || r.hazard, check := check, begun := r.begun,
                             entries := r.q.cmd.palCount * r.q.cmd.repeats, unit := s.coreUnit c } s
      s.modCore c (fun k => k.setRun e none)

/-- Completes an update command: its posts on the pushing core, UU_STATUS, and its trace record. -/
def completeUpdate (t : Nat) (s : State) : State :=
  let u := s.uu t
  match u.running with
  | none => s
  | some r =>
    if !r.done then s
    else
      let s := s.setReg (Off.uuStatus t) (BitVec.ofNat 64 (r.q.cmd.step.toNat + 2 ^ 32 * u.flags))
      let s := postTokens r.q.by_ r.q.cmd.posts r.q.tag s
      let mark := r.q.cmd.mark
      let s := noteMark mark s
      let s := traceUU t { tag := r.q.tag, engine := 3, zero := r.noop, timing := mark == .timing, value := mark == .value, fault := r.refused || r.hazard, check := false,
                           begun := r.begun, entries := r.q.cmd.count, unit := unitUU ((s.server t).getD t) } s
      let u := s.uu t
      s.setUU t { u with running := none }

/-- COMMAND_COMPLETE: every write of the command is visible, its status word is written, and its completion posts take effect (R32). -/
def execCommandComplete (u : UnitRef) (sigDiff : Option Word) (s : State) : Host.Outcome State Fault Refusal :=
  match u with
  | .core c e => .next (completeCore c e sigDiff s)
  | .update t => .next (completeUpdate t s)

/-! ### Timeouts (R60, R246) -/

/-- The tag and unit of a wait that has not been satisfied, if there is one at the site. -/
def waiting (w : WaitSite) (s : State) : Option (Tag × UnitId) :=
  match w with
  | .command c e =>
    let k := s.core c
    (match k.run e, k.queue e with
     | none, q :: _ => if waitsHold q.cmd.waits k then none else some (q.tag, s.coreUnit c)
     | _, _ => none)
  | .control c t => if waitsHold [t] (s.core c) then none else some (nextTag c s, s.coreUnit c)
  | .updateSeq t =>
    let u := s.uu t
    let unit := unitUU ((s.server t).getD t)
    let missing := !u.held.any (fun q => !q.repeated && q.cmd.seq.toNat == u.next)
    let early := (u.held.find? (fun q => !q.repeated && decide (u.next < q.cmd.seq.toNat))).map (fun q => (q.tag, unit))
    (match u.running, nextUpdate u with
     | none, some q => if waitsHold q.cmd.waits (s.core q.by_) then none else some (q.tag, unit)
     | _, _ => if missing then early else none)

/-- TOKEN_TIMEOUT: a wait has lasted longer than CMP_TOKEN_TIMEOUT; 0x2017, and the program is aborted on every core (R60). -/
def execTokenTimeout (w : WaitSite) (s : State) : Host.Outcome State Fault Refusal :=
  if bits (s.act Off.tokenTimeout) 0 32 = 0 ∨ s.step.isNone then .next s
  else match waiting w s with
    | some x => .next (abortProgram (raise { code := 0x2017, unit := x.2, tag := x.1 } s))
    | none => .next s

end Sys2Proof.Machine
end

