-- ==== Sys2Proof/Machine/Collective.lean ====
section
/-! DEFINITION. Collectives in canonical order (11, R413 to R417), the messages that carry them, liveness, pace beacons,
aborts (R424 to R427), gradient buckets (R262 to R264) and launch (R435). -/

namespace Sys2Proof.Machine

/-! ### Groups and homes (R413, R414) -/

/-- Device id of a rank of a collective's group. -/
def rankDev (k : CollSpec) (r : Nat) (s : State) : BitVec 16 := (nth s.fabric.rankActive (nth k.members r 0) (0, 0)).1

/-- This device's rank in a collective's group. -/
def ownRank (k : CollSpec) (s : State) : Option Nat :=
  (List.range k.members.length).find? (fun r => decide (nth k.members r 0 < s.fabric.rankActive.length) && rankDev k r s == s.deviceId)

/-- Bytes of an element. -/
def collWidth (k : CollSpec) : Nat := if k.wide then 8 else 4

/-- First and past-the-last element whose home is rank `h` (R414). -/
def homeRange (k : CollSpec) (h : Nat) : Nat × Nat :=
  let g := k.members.length
  match k.op with
  | .reduceScatter => (nth k.bounds h k.count, nth k.bounds (h + 1) k.count)
  | .reduce => if h = k.root then (0, k.count) else (0, 0)
  | _ => ((h * k.count + g - 1) / g, ((h + 1) * k.count + g - 1) / g)

/-- Is the collective a reduction. -/
def isReduction : CollOp → Bool
  | .reduceScatter => true
  | .allReduce => true
  | .reduce => true
  | _ => false

/-- Elements that must be done at rank `r` before the collective completes there: those it contributes to, and those it receives. -/
def collTarget (k : CollSpec) (r : Nat) : Nat :=
  let h := homeRange k r
  match k.op with
  | .reduceScatter => k.count
  | .reduce => k.count
  | .allReduce => k.count + (k.count - (h.2 - h.1))
  | .allGather => k.members.length * k.count
  | .broadcast => k.count
  | .allToAll => k.members.length * k.count
  | .transfer => if r = 1 then k.count else 0

/-- OP of the partials of a reduction (R407). -/
def partialOp (k : CollSpec) : Byte := if k.isMax then 3 else if k.wide then 2 else 1

/-- Address of the result of element `e` at rank `h`. -/
def resultAddr (k : CollSpec) (h e : Nat) : Dword :=
  k.dst + BitVec.ofNat 64 (collWidth k * (if k.op == .reduceScatter then e - (homeRange k h).1 else e))

/-! ### Collectives in flight -/

/-- FAB_TIMERS.COLL_US in ticks (R422). -/
def State.collTicks (s : State) : Nat := us (timerUs 16 16 500 s)

/-- A collective in flight. -/
def State.coll (s : State) (num : BitVec 32) : Option Coll := s.fabric.colls.find? (fun c => c.spec.num == num)

/-- Applies `f` to a collective in flight. -/
def modColl (num : BitVec 32) (f : Coll → Coll) (s : State) : State :=
  { s with fabric := { s.fabric with colls := s.fabric.colls.map (fun c => if c.spec.num == num then f c else c) } }

/-- A message accepted or sent is progress, and the deadline starts again (R422). -/
def progress (num : BitVec 32) (s : State) : State :=
  modColl num (fun c => { c with progress := s.now, deadline := BitVec.ofNat 64 (max c.deadline.toNat (s.now.toNat + s.collTicks)) }) s

/-- Notes elements done here. -/
def doneHere (num : BitVec 32) (n : Nat) (s : State) : State := modColl num (fun c => { c with done := c.done + n }) s

/-! ### What the hub die writes for the fabric (R292) -/

/-- Writes a result where the fabric may: within the stack allocations of the loaded program, or in core windows (R292, R407). -/
def fabricStore (a : Dword) (data : List Byte) (s : State) : State :=
  if data.isEmpty then s
  else match addrOf a with
    | .stack n =>
      if n % 4 == 0 && inAllocation s n data.length && s.stackLegal n data.length then stackStore (.device 0 []) 4 n data s else s
    | .window c m off => if off + data.length ≤ spaceSize m then windowStore c m off data s else s
    | _ => s

/-- The stack range of a local operand, if it lies there. -/
def stackRange (a : Dword) (n : Nat) : List (Nat × Nat) := match addrOf a with | .stack x => [(x, n)] | _ => []

/-- Reads bytes of a local operand, with the effects of the read (R300, R301). -/
def fabricRead (a : Dword) (n : Nat) (s : State) : List Byte × State :=
  (devBytes 4 a n s, match addrOf a with
    | .stack x => readEffects (.device 0 []) 4 [(x, n)] [] s
    | .window c m off => coreReadEffects (.device 0 []) c m off n s
    | _ => s)

/-- Cuts bytes into messages of at most 1 MiB, no bytes into one message of LENGTH zero (R406, R410; log 149); `k` bounds how many. -/
def cutMessages : Nat → Nat → List Byte → List (Nat × List Byte)
  | 0, _, _ => []
  | k + 1, off, l => if l.length ≤ 1048576 then [(off, l)] else (off, l.take 1048576) :: cutMessages k (off + 1048576) (l.drop 1048576)

/-- Sends bytes of a collective to a rank, as messages numbered by destination (R406). -/
def collSend (k : CollSpec) (me dest : Nat) (op : Byte) (a : Dword) (data : List Byte) (s : State) : State :=
  let dst := rankDev k dest s
  (cutMessages (data.length / 1048576 + 1) 0 data).foldl (fun s p =>
    match s.coll k.num with
    | none => s
    | some c =>
      let n := Sparse.look (fun _ => 0) c.chunks dst.toNat
      let s := modColl k.num (fun c => { c with chunks := Sparse.store (fun _ => 0) c.chunks dst.toNat (n + 1) }) s
      progress k.num (sendMsg dst (k.op == .transfer)
        { op := op, version := 1, placeEpoch := 0, coll := k.num, chunk := BitVec.ofNat 32 n, length := 0,
          address := a + BitVec.ofNat 64 p.1, step := s.stepNo, srcRank := BitVec.ofNat 16 me } p.2 s)) s

/-! ### The chain (R415, R416) -/

/-- The values that bytes spell, `w` bytes each. -/
def valuesOf (w : Nat) (l : List Byte) : List Nat := (List.range (l.length / w)).map (fun i => byteField l (w * i) w)

/-- The bytes of values. -/
def bytesOf (w : Nat) (l : List Nat) : List Byte := l.flatMap (leBytes w)

/-- Adds this rank's value to a partial, rounded once under RNE in the format of the reduction, or takes the larger (R414 to R416). -/
def combine (k : CollSpec) (part own : Nat) : Nat :=
  if k.isMax then (fmax (BitVec.ofNat 32 part) (BitVec.ofNat 32 own)).toNat
  else if k.wide then (toF64 ((f64 (BitVec.ofNat 64 part)).add (f64 (BitVec.ofNat 64 own)))).toNat
  else (fadd (BitVec.ofNat 32 part) (BitVec.ofNat 32 own)).toNat

/-- This rank's own values of elements `e0` to `e1`: the canonical NaN for the partial norm of an invalid step (R354), which has then left. -/
def ownValues (k : CollSpec) (e0 e1 : Nat) (s : State) : List Nat × State :=
  let w := collWidth k
  let r := fabricRead (k.src + BitVec.ofNat 64 (w * e0)) (w * (e1 - e0)) s
  let vals := valuesOf w r.1
  if k.norm then
    (if s.stepInvalid then vals.map (fun _ => if k.wide then nan64.toNat else nan32.toNat) else vals,
     r.2.modStep (fun x => { x with normSent := true }))
  else (vals, r.2)

/-- Keeps results at their home, and in an all-reduce sends them to every other rank (R415); the first result of the all-reduce of S is S (R251). -/
def keepResult (k : CollSpec) (me e0 : Nat) (vals : List Nat) (s : State) : State :=
  let data := bytesOf (collWidth k) vals
  let a := resultAddr k me e0
  let s := doneHere k.num vals.length (fabricStore a data s)
  let s := if k.norm && e0 == 0 && !vals.isEmpty then s.modStep (fun r => { r with globalNorm := some (BitVec.ofNat 64 (nth vals 0 0)) }) else s
  if k.op == .allReduce then
    ((List.range k.members.length).filter (fun r => r != me)).foldl (fun s r => collSend k me r 0 a data s) s
  else s

/-- Passes values of home `h` on: kept at home, sent to the next rank elsewhere. -/
def passChain (k : CollSpec) (me h e0 : Nat) (vals : List Nat) (s : State) : State :=
  if vals.isEmpty then s
  else if me = h then keepResult k me e0 vals s
  else
    let w := collWidth k
    let next := (me + 1) % k.members.length
    collSend k me next (partialOp k) (k.src + BitVec.ofNat 64 (w * e0)) (bytesOf w vals) (doneHere k.num vals.length s)

/-! ### Starting (R413 to R417) -/

/-- What a rank sends when a collective begins. -/
def beginColl (k : CollSpec) (me : Nat) (s : State) : State :=
  let g := k.members.length
  let w := collWidth k
  let n := w * k.count
  let others := (List.range g).filter (fun r => r != me)
  let take (off : Nat) (s : State) : List Byte × State := fabricRead (k.src + BitVec.ofNat 64 off) n s
  match k.op with
  | .allGather =>
    let r := take 0 s
    let a := k.dst + BitVec.ofNat 64 (n * me)
    others.foldl (fun s d => collSend k me d 0 a r.1 s) (doneHere k.num k.count (fabricStore a r.1 r.2))
  | .broadcast =>
    if me = k.root then
      let r := take 0 s
      others.foldl (fun s d => collSend k me d 0 k.dst r.1 s) (doneHere k.num k.count (fabricStore k.dst r.1 r.2))
    else s
  | .allToAll =>
    let a := k.dst + BitVec.ofNat 64 (n * me)
    let r := take (n * me) s
    others.foldl (fun s d => let r := take (n * d) s; collSend k me d 0 a r.1 r.2) (doneHere k.num k.count (fabricStore a r.1 r.2))
  | .transfer =>
    if me = 0 then let r := take 0 s; collSend k me 1 0 k.dst r.1 r.2 else s
  | _ =>
    let h := (me + g - 1) % g
    let e := homeRange k h
    let r := ownValues k e.1 e.2 s
    passChain k me h e.1 r.1 r.2

/-- Posts the tokens of a collective to the waiting cores (R33, R58). -/
def collPosts (k : CollSpec) (s : State) : State := remotePosts k.posts 0 s

/-- Ends a collective by an abort: no further results, its tokens posted, and no update command of the step runs unless the device holds S (R425, R427). -/
def abortEffect (num : BitVec 32) (reason : Nat) (s : State) : State :=
  let s := match s.coll num with
    | some c => collPosts c.spec s
    | none => s
  let s := { s with fabric := { s.fabric with
    colls := s.fabric.colls.filter (fun c => c.spec.num != num)
    out := s.fabric.out.filter (fun o => !(o.msg.hdr.coll == num && o.msg.hdr.step == s.stepNo))
    aborted := s.fabric.aborted ++ [num] } }
  (s.modStep (fun r => { r with abortReasons := r.abortReasons ++ [reason], noUpdates := r.noUpdates || r.globalNorm.isNone })).count Off.fabCount 5

/-- Unit id of the collective engine (R353). -/
def unitEngine : UnitId := unitId 8 0 0

/-- This device aborts a collective: the matching record, and an ABORT to every device of its rank table (R424). -/
def abortOwn (reason : Nat) (num : BitVec 32) (s : State) : State :=
  let s := raise { code := BitVec.ofNat 16 (0x3030 + reason), unit := unitEngine } s
  let body : List Byte := [0x04#8, BitVec.ofNat 8 reason, 0, 0] ++ leBytes 4 num.toNat ++ leBytes 4 s.stepNo.toNat ++ leBytes 4 0
  let s := s.jobPeers.foldl (fun s d => sendControl d body s) s
  abortEffect num reason s

/-- Aborts several collectives. -/
def abortAll (reason : Nat) (nums : List (BitVec 32)) (s : State) : State := nums.foldl (fun s n => abortOwn reason n s) s

/-- The collectives in flight in which a device takes part. -/
def sharedWith (d : BitVec 16) (s : State) : List (BitVec 32) :=
  (s.fabric.colls.filter (fun c => (List.range c.spec.members.length).any (fun r => rankDev c.spec r s == d))).map (fun c => c.spec.num)

/-- Begins a collective: put in flight, its first messages sent. One that was aborted before it began only posts its tokens; one with a lost peer is aborted with reason 1 (R420, R424, R425). -/
def startColl (k : CollSpec) (s : State) : State :=
  match ownRank k s, s.step with
  | some me, some _ =>
    if s.fabric.aborted.contains k.num then collPosts k s
    else if (s.coll k.num).isSome then s
    else
      let got := total ((s.fabric.early.filter (fun x => x.1 == k.num)).map (fun x => x.2)) / collWidth k
      let c : Coll := { spec := k, progress := s.now, deadline := BitVec.ofNat 64 (s.now.toNat + s.collTicks), extended := 0, chunks := [], done := got }
      let s := { s with fabric := { s.fabric with colls := s.fabric.colls ++ [c], early := s.fabric.early.filter (fun x => x.1 != k.num) } }
      if (List.range k.members.length).any (fun r => (s.peer (rankDev k r s)).lost) then abortOwn 1 k.num s
      else beginColl k me s
  | _, _ => s

/-- The stack range that a collective reads as it begins: of a reduction, the elements whose home is the rank before this one. -/
def startRange (k : CollSpec) (s : State) : List (Nat × Nat) :=
  let g := k.members.length
  match k.op, ownRank k s with
  | .allToAll, some _ => stackRange k.src (collWidth k * k.count * g)
  | .allGather, some _ => stackRange k.src (collWidth k * k.count)
  | .broadcast, some me => if me = k.root then stackRange k.src (collWidth k * k.count) else []
  | .transfer, some me => if me = 0 then stackRange k.src (collWidth k * k.count) else []
  | _, some me => let e := homeRange k ((me + g - 1) % g); stackRange (k.src + BitVec.ofNat 64 (collWidth k * e.1)) (collWidth k * (e.2 - e.1))
  | _, none => []

/-- COLLECTIVE_START: a collective that the program names begins in canonical rank order. -/
def execCollectiveStart (x : CollRun) (s : State) : Host.Outcome State Fault Refusal :=
  let k := x.spec
  let errs := x.errs
  .next (startColl k (hubRead (startRange k s) errs s))

/-- BUCKET_LAUNCH: the next bucket of the compiled list is launched once the last of its blocks has closed (R263, R264). -/
def execBucketLaunch (s : State) : Host.Outcome State Fault Refusal :=
  match s.program, s.step with
  | some p, some r =>
    (match p.image.buckets[r.launched]? with
     | some b =>
       if b.blocks.all (fun x => r.closed.contains x) then
         .next (startColl b.coll ((hubRead (startRange b.coll s) noErrs s).modStep (fun r => { r with launched := r.launched + 1 })))
       else .next s
     | none => .next s)
  | _, _ => .next s

/-- COLLECTIVE_COMPLETE: every result is visible, and the waiting cores' tokens are posted (R415). -/
def execCollectiveComplete (num : BitVec 32) (s : State) : Host.Outcome State Fault Refusal :=
  match s.coll num with
  | none => .next s
  | some c =>
    match ownRank c.spec s with
    | none => .next s
    | some me =>
      if collTarget c.spec me ≤ c.done then
        let s := { s with fabric := { s.fabric with colls := s.fabric.colls.filter (fun x => x.spec.num != num) } }
        .next (noteMark c.spec.mark (collPosts c.spec s))
      else .next s

/-! ### Receiving messages (R407 to R410) -/

/-- Acknowledges a message to its sender (R408). -/
def sendAck (m : Msg) (s : State) : State :=
  sendControl m.src ([0x05#8, 0, 0, 0] ++ leBytes 4 m.hdr.coll.toNat ++ leBytes 4 m.hdr.chunk.toNat ++ leBytes 4 m.hdr.step.toNat) s

/-- Takes a message out of the inbox. -/
def takeMsg (m : Msg) (s : State) : State := { s with fabric := { s.fabric with inbox := s.fabric.inbox.erase m } }

/-- The key by which a duplicate is known (R408). -/
def msgKey (m : Msg) : BitVec 16 × BitVec 32 × BitVec 32 × BitVec 32 := (m.src, m.hdr.coll, m.hdr.chunk, m.hdr.step)

/-- Accepts a message: it is noted, acknowledged, and is progress of its collective. -/
def acceptMsg (m : Msg) (s : State) : State :=
  let s := takeMsg m s
  progress m.hdr.coll (sendAck m { s with fabric := { s.fabric with accepted := s.fabric.accepted ++ [msgKey m] } })

/-- Drops a message and acknowledges it. -/
def ackOnly (m : Msg) (s : State) : State := sendAck m (takeMsg m s)

/-- Drops a message for its placement epoch (R409): counted and acknowledged, the first in each epoch reported as R371 does. -/
def dropMsg (m : Msg) (s : State) : State :=
  let e := s.rankEpoch s.deviceId
  let s := (ackOnly m s).count Off.fabCount 3
  if s.fabric.dropEpoch == e then s
  else raise { code := 0x0012, unit := unitEngine, epoch := e.getD 0 } { s with fabric := { s.fabric with dropEpoch := e } }

/-- Is a message's placement epoch the current one of this rank (R409). -/
def epochCurrent (m : Msg) (s : State) : Bool := s.rankEpoch s.deviceId == some m.hdr.placeEpoch

/-- Receives a message: a duplicate is acknowledged again, one of another placement epoch is dropped, one of an earlier step or of an aborted collective is acknowledged only, one of a later step waits; any other is carried out and accepted. -/
def receive (needsStep : Bool) (f : Msg → State → Option State) (m : Msg) (s : State) : State :=
  let s := heardFrom m.src s
  if s.fabric.accepted.contains (msgKey m) then ackOnly m s
  else if !epochCurrent m s then dropMsg m s
  else if needsStep && s.step.isNone then s
  else if needsStep && (decide (m.hdr.step.toNat < s.stepNo.toNat) || s.fabric.aborted.contains m.hdr.coll) then ackOnly m s
  else if needsStep && m.hdr.step != s.stepNo then s
  else match f m s with
    | some t => acceptMsg m t
    | none => s

/-- Carries out a write message: its payload at its address, counted toward its collective; the result of the all-reduce of S is S. -/
def writeMsg (m : Msg) (s : State) : Option State :=
  let n := m.payload.length
  let s := fabricStore m.hdr.address m.payload s
  match s.coll m.hdr.coll with
  | some c =>
    let s := doneHere m.hdr.coll (n / collWidth c.spec) s
    some (if c.spec.norm && m.hdr.address == c.spec.dst && decide (0 < n)
      then s.modStep (fun r => { r with globalNorm := some (BitVec.ofNat 64 (byteField m.payload 0 (collWidth c.spec))) }) else s)
  | none => some { s with fabric := { s.fabric with early := s.fabric.early ++ [(m.hdr.coll, n)] } }

/-- MSG_WRITE: the payload is stored at the named address and the message is acknowledged. -/
def execMsgWrite (m : Msg) (s : State) : Host.Outcome State Fault Refusal := .next (receive true writeMsg m s)

/-- Carries out a partial: this rank's values are added, element by element of each home, and passed on or kept (R415). It waits until the collective has begun here. -/
def partialMsg (errs : ReadErrs) (m : Msg) (s : State) : Option State :=
  match s.coll m.hdr.coll with
  | none => none
  | some c =>
    match ownRank c.spec s with
    | none => none
    | some me =>
      let k := c.spec
      let w := collWidth k
      let vals := valuesOf w m.payload
      let e0 := (m.hdr.address - k.src).toNat / w
      let e1 := e0 + vals.length
      let s := hubRead (stackRange m.hdr.address (w * vals.length)) errs s
      some ((List.range k.members.length).foldl (fun s h =>
        let r := homeRange k h
        let lo := max e0 r.1
        let hi := min e1 r.2
        if lo < hi then
          let own := ownValues k lo hi s
          let part := (vals.drop (lo - e0)).take (hi - lo)
          passChain k me h lo ((part.zip own.1).map (fun p => combine k p.1 p.2)) own.2
        else s) s)

/-- MSG_REDUCE_PARTIAL: an FP32 or binary64 partial is added to the local value and sent on or kept. -/
def execMsgReducePartial (x : MsgRead) (s : State) : Host.Outcome State Fault Refusal := .next (receive true (partialMsg x.errs) x.msg s)

/-- MSG_MAX_PARTIAL: a maximum partial is combined with the local value along the chain (R416). -/
def execMsgMaxPartial (x : MsgRead) (s : State) : Host.Outcome State Fault Refusal := .next (receive true (partialMsg x.errs) x.msg s)

/-- Carries out a token post: the core of the window at ADDRESS, counter and amount in the payload's first two bytes (log 28); a core that is not placed drops it (R371). -/
def tokenMsg (m : Msg) (s : State) : Option State :=
  match addrOf m.hdr.address with
  | .window c _ _ =>
    some (if s.placed c then postToken c (byteField m.payload 0 1 % 32) (byteField m.payload 1 1) 0 s else dropWrite c s)
  | _ => some s

/-- MSG_TOKEN_POST: a token post from another device; an amount of zero changes nothing. -/
def execMsgTokenPost (m : Msg) (s : State) : Host.Outcome State Fault Refusal :=
  .next (receive true (fun m s => if byteField m.payload 1 1 = 0 then some s else tokenMsg m s) m s)

/-- MSG_ACK: the outstanding message is complete (R408). -/
def execMsgAck (src : BitVec 16) (coll chunk step : BitVec 32) (s : State) : Host.Outcome State Fault Refusal :=
  let s := heardFrom src s
  .next { s with fabric := { s.fabric with out := s.fabric.out.filter (fun o =>
    !(o.dst == src && o.msg.hdr.coll == coll && o.msg.hdr.chunk == chunk && o.msg.hdr.step == step)) } }

/-- The port of service after the one used before, or any when that one is no longer in service (R408). -/
def nextPort (p : Nat) (s : State) : Option Nat :=
  let l := s.inService
  match l.find? (fun q => decide (p < q)) with
  | some q => some q
  | none => l.head?

/-- MESSAGE_ACK_TIMEOUT: a message unacknowledged for MSG_US is sent again on the next port, with 0x0020 (R408). -/
def execMessageAckTimeout (dst : BitVec 16) (coll chunk step : BitVec 32) (s : State) : Host.Outcome State Fault Refusal :=
  let mine (o : Outstanding) : Bool := o.dst == dst && o.msg.hdr.coll == coll && o.msg.hdr.chunk == chunk && o.msg.hdr.step == step
  match s.fabric.out.find? (fun o => mine o && longerThan o.sentAt (timerUs 48 16 200 s) s) with
  | none => .next s
  | some o =>
    let x := s.port o.port
    let struck := decide (o.port < 48) && (x.struck || x.heldMsg == some (dst, o.msg))
    let s := raise { code := 0x0020, unit := if o.port < 48 then unitPort o.port else unitEngine, injected := struck } (s.count Off.fabCount 2)
    match nextPort o.port s with
    | none => .next s
    | some p =>
      let transfer := match s.coll coll with | some c => c.spec.op == .transfer | none => false
      let s := { s with fabric := { s.fabric with out := s.fabric.out.map (fun x => if mine x then { x with port := p, sentAt := s.now } else x) } }
      .next (putMessage p (vcOf o.msg.hdr.op.toNat transfer) dst o.msg s)

/-! ### Liveness and pace (R418 to R423) -/

/-- PROBE: a probe is answered on its port with its counter value (R419). -/
def execProbe (p : Fin 48) (src : BitVec 16) (counter : Dword) (s : State) : Host.Outcome State Fault Refusal :=
  .next (controlOn p.val src ([0x02#8, 0, 0, 0, 0, 0, 0, 0] ++ leBytes 8 counter.toNat) (heardFrom src s))

/-- PROBE_REPLY: a flit from the peer restarts its probe timer (R423). -/
def execProbeReply (src : BitVec 16) (counter : Dword) (s : State) : Host.Outcome State Fault Refusal :=
  let _ := counter
  .next (heardFrom src s)

/-- Sends a probe with the device's counter, after `n` unanswered ones. -/
def sendProbe (d : BitVec 16) (n : Nat) (s : State) : State :=
  let s := s.setPeer { s.peer d with unanswered := n, probed := some s.now }
  sendControl d ([0x01#8, 0, 0, 0, 0, 0, 0, 0] ++ leBytes 8 s.now.toNat) s

/-- PEER_SILENCE: no flit from a peer of the job for PROBE_US, and the device probes it (R420). -/
def execPeerSilence (peer : BitVec 16) (s : State) : Host.Outcome State Fault Refusal :=
  let x := s.peer peer
  if peer ∈ s.jobPeers ∧ !x.lost ∧ x.probed.isNone ∧ x.heard.toNat + us (timerUs 8 8 10 s) ≤ s.now.toNat then .next (sendProbe peer 0 s) else .next s

/-- PROBE_UNANSWERED: a probe has gone unanswered for 20 µs; the third in a row declares the peer lost with 0x3020 and aborts the shared collectives with reason 1 (R420). -/
def execProbeUnanswered (peer : BitVec 16) (s : State) : Host.Outcome State Fault Refusal :=
  let x := s.peer peer
  let waited := match x.probed with | some t => decide (t.toNat + us 20 ≤ s.now.toNat) | none => false
  if peer ∈ s.jobPeers ∧ !x.lost ∧ waited = true then
    if x.unanswered < 2 then .next (sendProbe peer (x.unanswered + 1) s)
    else
      let s := raise { code := 0x3020, unit := unitEngine } (s.setPeer { x with unanswered := 3, lost := true, probed := none })
      .next (abortAll 1 (sharedWith peer s) s)
  else .next s

/-- Moves a deadline to at least the time a beacon calls for, within the largest total extension (R422). -/
def extendDeadline (want cap : Nat) (c : Coll) : Coll :=
  let inc := min (want - c.deadline.toNat) (cap - c.extended)
  { c with deadline := BitVec.ofNat 64 (c.deadline.toNat + inc), extended := c.extended + inc }

/-- BEACON: a pace beacon extends the deadlines of shared collectives unless it carries STOPPED; one from outside the job is counted (R422). -/
def execBeacon (src : BitVec 16) (stopped : Bool) (cause : Byte) (delay step : BitVec 32) (s : State) : Host.Outcome State Fault Refusal :=
  let _ := (cause, step)
  if src ∈ s.jobPeers then
    let s := heardFrom src s
    if stopped then .next s
    else
      let want := s.now.toNat + us delay.toNat + s.collTicks
      let cap := us (bits (s.act Off.timers) 32 16)
      .next ((sharedWith src s).foldl (fun s n => modColl n (extendDeadline want cap) s) s)
  else .next (s.count Off.fabCount 6)

/-- BEACON_INTERVAL: while the condition of R421 holds, a beacon goes to every device with which a collective is in flight. -/
def execBeaconInterval (delay : BitVec 32) (cause : Byte) (s : State) : Host.Outcome State Fault Refusal :=
  let devs := ((s.fabric.colls.flatMap (fun c => (List.range c.spec.members.length).map (fun r => rankDev c.spec r s))).filter
    (fun d => d != s.deviceId)).eraseDups
  let body : List Byte := [0x03#8, BitVec.ofNat 8 (flag s.fabric.stopped), cause, 0] ++ leBytes 4 delay.toNat ++ leBytes 4 s.stepNo.toNat ++ leBytes 4 0
  if s.fabric.stopped || decide (0 < delay.toNat) then .next (devs.foldl (fun s d => (sendControl d body s).count Off.fabCount 4) s) else .next s

/-! ### Aborts (R422, R424 to R427, R430) -/

/-- ABORT_CONTROL_FLIT: an ABORT for the current step aborts the named collective with 0x0022 and without forwarding; one for another step, from outside the job, or after the first of the step is counted (R424, R426). -/
def execAbortControlFlit (src : BitVec 16) (reason : Byte) (coll step : BitVec 32) (s : State) : Host.Outcome State Fault Refusal :=
  let s := heardFrom src s
  match s.step with
  | some r =>
    if src ∈ s.jobPeers ∧ step = r.number ∧ r.abortReasons.isEmpty then
      let seq := s.mram.nextSeq
      let s := raise { code := 0x0022, unit := unitEngine } s
      let s := abortEffect coll reason.toNat s
      .next (s.modStep (fun r => { r with causes := r.causes ++ [(if reason == 3 then 7 else 4, seq)] }))
    else .next (s.count Off.fabCount 6)
  | none => .next (s.count Off.fabCount 6)

/-- COLLECTIVE_DEADLINE: the deadline has passed, and the collective is aborted with reason 2 (R422). -/
def execCollectiveDeadline (num : BitVec 32) (s : State) : Host.Outcome State Fault Refusal :=
  match s.coll num with
  | some c => if c.deadline.toNat ≤ s.now.toNat then .next (abortOwn 2 num s) else .next s
  | none => .next s

/-- HOT_STACK_ABORT_TIMEOUT: the abort timer expires with a stack still stopped; every collective of the step is aborted with reason 0 (R430). -/
def execHotStackAbortTimeout (s : State) : Host.Outcome State Fault Refusal :=
  let expired := match s.fabric.abortTimer with | some t => decide (t.toNat ≤ s.now.toNat) | none => false
  if s.fabric.stopped && expired then
    .next (abortAll 0 (s.fabric.colls.map (fun c => c.spec.num)) { s with fabric := { s.fabric with abortTimer := none } })
  else .next s

/-! ### Launch (R435) and link injection (R436) -/

/-- LAUNCH: the counter has reached the program's launch time, and the program begins. -/
def execLaunch (s : State) : Host.Outcome State Fault Refusal :=
  match s.program with
  | some p => if (match p.launch with | some t => decide (t.toNat ≤ s.now.toNat) | none => false) && !p.begun then .next { s with program := some { p with begun := true } } else .next s
  | none => .next s

/-- May an injection be armed: no job is loaded, or the loaded program carries the test annotation (R381). -/
def mayInject (s : State) : Bool := match s.program with | some p => p.image.test | none => true

/-- A write of FAB_INJECT_CTL: ARM = 1 outside a test job is ignored with 0x6010 (R436). -/
def writeFabInject (v : Dword) (s : State) : State :=
  if bit v 0 && !mayInject s then raise { code := 0x6010, unit := 0 } s
  else
    let s := s.setReg Off.fabInject (v &&& BitVec.ofNat 64 (writeMask Off.fabInject))
    { s with fabric := { s.fabric with injectSeen := 0 } }

/-- A write of FAB_PLAN_CTL: MIN_PORTS, and with CHECK the check of R411. -/
def writePlanCtl (v : Dword) (s : State) : State :=
  let s := s.setField Off.planCtl 8 8 (bits v 8 8)
  if bit v 0 then planCheck s else s

end Sys2Proof.Machine
end

