-- ==== Sys2Proof/Machine/Host.lean ====
section
/-! DEFINITION. The host's access to the BARs (R445 to R449), the doorbells and rings (R451 to R463, R595, R596), the UCIe
link (R446), and completion (R485, R487). -/

namespace Sys2Proof.Machine

/-! ### Reachability and implemented offsets (R557, R560, R588) -/

/-- Does the host reach the device: the link carries traffic and start-up is complete or ended in recovery mode (R446, R557). -/
def State.reachable (s : State) : Bool := s.linkUp && (s.mgmt.boot == .ready || s.mgmt.boot == .recovery)

/-- The 8-byte slots of BAR0 in the low half (16). -/
def slotListed (o : Nat) : Bool :=
  inArray o Off.cap 8 8 || o == Off.eventCtl || o == Off.errAddr || o == Off.errInfo || inArray o Off.hifCount 8 6 ||
  inArray o (Off.sqBase 0) 0x40 16 || inArray o (Off.sqCfg 0) 0x40 16 || inArray o (Off.cqBase 0) 0x40 16 ||
  inArray o (Off.cqCfg 0) 0x40 16 || inArray o (Off.ringStatus 0) 0x40 16 || inArray o (Off.msix 0) 8 64 || o == Off.pba ||
  inArray o Off.traceCtl 8 11 || inArray o (Off.mxStatus 0) 8 256 || inArray o Off.mxCount 8 6 ||
  inArray o (Off.vxStatus 0) 8 256 || inArray o Off.vxCount 8 5 || inArray o Off.lxCount 8 4 || inArray o Off.coreMap 8 272 ||
  inArray o Off.relCount 8 9 || inArray o (Off.qzStatus 0 0) 8 512 || inArray o Off.qzCount 8 7 || inArray o (Off.uuStatus 0) 8 4 ||
  inArray o Off.uuCount 8 6 || inArray o Off.llrCtl 8 9 || inArray o Off.memCount 8 8 || inArray o Off.memChan 8 384 ||
  inArray o Off.deviceId 8 6 || inArray o (Off.plan 0) 8 48 || inArray o Off.portStatus 8 48 || inArray o Off.portPeer 8 48 ||
  inArray o (Off.ethCtl 0) 8 5 || inArray o (Off.ethCtl 1) 8 5 || inArray o Off.fabCount 8 10 || inArray o Off.pwrMode 8 9 ||
  inArray o Off.ledgerData 8 16 || inArray o Off.pwrTile 8 4 || inArray o Off.pwrStack 8 24 || inArray o Off.bootStatus 8 8 ||
  inArray o Off.logStatus 8 11 || o == Off.osdan || inArray o Off.mgtCount 8 6 || inArray o (Off.monCfg 0) 0x100 64 ||
  inArray o (Off.monCfg 0 + 8) 0x100 64 || inArray o (Off.monCfg 0 + 0x10) 0x100 64 || inArray o (Off.monCfg 0 + 0x18) 0x100 64 ||
  (decide (Off.monCfg 0 ≤ o) && decide (o < Off.monCfg 64) && decide (0x40 ≤ o % 0x100) && decide (o % 0x100 < 0x80) && o % 8 == 0) ||
  inArray o Off.secId 8 6 || o == Off.attAddr || inArray o Off.idKey 8 8 || inArray o Off.meas 8 32

/-- Offset of an active window above its shadow window (R582). -/
def activeWindow : Nat := 0x800000

/-- Is a slot of BAR0 the active window of an SH register. -/
def isActiveWindow (o : Nat) : Bool := decide (activeWindow ≤ o) && shOffsets.contains (o - activeWindow)

/-- The slots that recovery mode implements (R560). -/
def recoverySlot (o : Nat) : Bool :=
  inArray o Off.cap 8 8 || o == Off.bootStatus || (decide (Off.secId ≤ o) && slotListed o)

/-- Is a slot of BAR0 implemented. -/
def implemented (o : Nat) (s : State) : Bool :=
  if s.mgmt.boot == .recovery then recoverySlot o else slotListed o || isActiveWindow o

/-- Offset of the slot that holds a byte. -/
def slotOf (o : Nat) : Nat := o / 8 * 8

/-! ### Violating accesses (R448, R449) -/

/-- Captures a violation or a refused address in HIF_ERR_ADDR and HIF_ERR_INFO; KIND 0 BAR0, 1 BAR2, 2 host memory, 3 descriptor. -/
def logErr (kind : Nat) (write : Bool) (code : Code) (addr : Dword) (s : State) : State :=
  let info := s.reg Off.errInfo
  let n := min (bits info 32 32 + 1) (2 ^ 32 - 1)
  if bit info 0 then s.setField Off.errInfo 32 32 n
  else (s.setReg Off.errAddr addr).setReg Off.errInfo
    (BitVec.ofNat 64 (1 + 2 * kind + 16 * flag write + 65536 * code.toNat + 2 ^ 32 * n))

/-- How a violating access is answered (R449). -/
inductive Answer where
  | unsupported | abort
  deriving DecidableEq, Repr

/-- Answers a violating access, logs it and raises 0x4001 (R449). -/
def violate (bar2 write : Bool) (offset : Nat) (a : Answer) (s : State) : State :=
  let s := s.emit (match a with | .unsupported => .unsupported write | .abort => .completerAbort write)
  let s := (logErr (flag bar2) write 0x4001 (BitVec.ofNat 64 offset) s).count Off.hifCount 1
  raise { code := 0x4001, unit := 0, addr := BitVec.ofNat 64 offset } s

/-- Is the shadow set frozen: a turn is armed (R585). -/
def State.frozen (s : State) : Bool := bit (s.reg Off.turnCtl) 0

/-- Is a doorbell's ring disabled (R448, R452, R455). -/
def bellOff (r : Nat) (cq : Bool) (s : State) : Bool :=
  if cq then !(s.cq r).enabled
  else match (s.sq r).state with
    | .enabled => false
    | .halted => false
    | _ => true

/-- How a BAR access violates, if it does (R448, R585). -/
def violation (a : BarAccess) (s : State) : Option Answer :=
  let sized := (a.width == 4 || a.width == 8) && a.offset % a.width == 0
  if a.bar2 then
    let o := a.offset % 4096
    if decide (65536 ≤ a.offset) || decide (8 ≤ o) || s.mgmt.boot == .recovery then some .unsupported
    else if !sized then some .abort
    else
      let r := a.offset / 4096
      let off := (o < 4 && bellOff r false s) || ((decide (4 ≤ o) || a.width == 8) && bellOff r true s)
      if a.write && off then some .unsupported else none
  else
    let o := slotOf a.offset
    if !implemented o s then some .unsupported
    else if !sized || (a.write && isActiveWindow o) || (a.write && s.frozen && shOffsets.contains o) then some .abort
    else none

/-- VIOLATING_ACCESS: a violating access is answered, logged and raised; in D3hot every access receives Unsupported Request (R445, R449). -/
def execViolatingAccess (a : BarAccess) (s : State) : Host.Outcome State Fault Refusal :=
  if !s.reachable then .next s
  else if s.host.d3hot then .next (s.emit (.unsupported a.write))
  else match violation a s with
    | some x => .next (violate a.bar2 a.write a.offset x s)
    | none => .next s

/-- Carries out a host write that no violation refuses. -/
def hostWrite (a : BarAccess) (f : State → State) (s : State) : Host.Outcome State Fault Refusal :=
  if !s.reachable then .next s
  else if s.host.d3hot then .next (s.emit (.unsupported true))
  else match violation a s with
    | some x => .next (violate a.bar2 true a.offset x s)
    | none => .next (f s)

/-- A write of a whole slot of BAR0. -/
def slotWrite (o : Nat) (v : Dword) : BarAccess := { bar2 := false, offset := o, width := 8, write := true, value := v }

/-- A write of a doorbell. -/
def bellWrite (o width : Nat) (v : Dword) : BarAccess := { bar2 := true, offset := o, width := width, write := true, value := v }

/-! ### Doorbells (R459 to R463, R595) -/

/-- Slots of a submission ring. -/
def State.sqEntries (s : State) (r : Nat) : Nat := bits (s.reg (Off.sqCfg r)) 32 17

/-- The completion ring of a submission ring (R453). -/
def State.cqOf (s : State) (r : Nat) : Nat := bits (s.reg (Off.sqCfg r)) 4 4

/-- Does a doorbell value break R462 for a ring of `n` slots. -/
def bellBad (v : Word) (n : Nat) : Bool := decide (n ≤ bits v 0 16) || bits v 16 16 != 0

/-- An invalid doorbell write halts the ring with 0x4002 (R462). -/
def haltRing (r : Nat) (s : State) : State :=
  raise { code := 0x4002, unit := 0 } (s.setSq r { s.sq r with state := .halted, stopped := true })

/-- A valid SQ_TAIL value. -/
def setTail (r : Nat) (v : Word) (s : State) : State := s.setSq r { s.sq r with tail := v }

/-- A valid CQ_HEAD value releases the slots up to it, and held entries are written (R486). -/
def setHead (r : Nat) (v : Word) (s : State) : State :=
  let c := s.cq r
  let n := s.cqEntries r
  let freed := (bits v 0 16 + n - bits c.head 0 16) % max n 1
  let s := s.setCq r { c with head := v, used := c.used - freed }
  cqFlush r (s.cq r).held.length s

/-- SQ_TAIL: the tail moves, so that descriptors up to it may be fetched, or an invalid value halts the ring (R460, R462). -/
def execSqTail (r : Fin 16) (v : Word) (s : State) : Host.Outcome State Fault Refusal :=
  hostWrite (bellWrite (4096 * r.val) 4 (v.setWidth 64))
    (fun s => if bellBad v (s.sqEntries r.val) then haltRing r.val s else setTail r.val v s) s

/-- CQ_HEAD: completion slots are released, or an invalid value halts the ring (R462, R486). -/
def execCqHead (r : Fin 16) (v : Word) (s : State) : Host.Outcome State Fault Refusal :=
  hostWrite (bellWrite (4096 * r.val + 4) 4 (v.setWidth 64))
    (fun s => if bellBad v (s.cqEntries r.val) then haltRing r.val s else setHead r.val v s) s

/-- DOORBELL_PAIR_WRITE: CQ_HEAD, then SQ_TAIL; when either value is invalid neither takes effect (R595). -/
def execDoorbellPairWrite (r : Fin 16) (v : Dword) (s : State) : Host.Outcome State Fault Refusal :=
  hostWrite (bellWrite (4096 * r.val) 8 v)
    (fun s =>
      let tail := BitVec.ofNat 32 (bits v 0 32)
      let head := BitVec.ofNat 32 (bits v 32 32)
      if bellBad tail (s.sqEntries r.val) || bellBad head (s.cqEntries r.val) then haltRing r.val s
      else setTail r.val tail (setHead r.val head s)) s

/-! ### Enabling and disabling rings (R451 to R457, R596) -/

/-- Does a number of slots satisfy R451. -/
def entriesOk (n : Nat) : Bool := decide (16 ≤ n) && decide (n ≤ 65536) && n == 2 ^ Nat.log2 n

/-- EN of a submission ring goes from 0 to 1 (R455, R596). -/
def enableSq (r : Nat) (s : State) : State :=
  let cfg := s.reg (Off.sqCfg r)
  let q := s.sq r
  let st : RingState := if !entriesOk (bits cfg 32 17) then .badConfig
    else if bits cfg 8 8 ≤ 1 ∧ 1 ≤ bits cfg 16 8 then .enabled else .noVersion
  s.setSq r { q with state := st, version := if st == .enabled then 1 else 0, head := 0, tail := 0, stopped := false }

/-- EN = 0 disables a submission ring at once; fetched descriptors run on (R457). -/
def disableSq (r : Nat) (s : State) : State := s.setSq r { s.sq r with state := .disabled }

/-- EN of a completion ring goes from 0 to 1 (R452, R596). -/
def enableCq (r : Nat) (s : State) : State :=
  if entriesOk (s.cqEntries r) then
    s.setCq r { s.cq r with enabled := true, head := 0, tail := 0, phase := true, used := 0, held := [], since := 0 }
  else s.setSq r { s.sq r with state := .badConfig }

/-- EN = 0 disables a completion ring, which discards the entries it holds and counts them (R457). -/
def disableCq (r : Nat) (s : State) : State :=
  let c := s.cq r
  (s.setCq r { c with enabled := false, held := [] }).count Off.hifCount 3 c.held.length

/-- A write of HIF_SQ_CFG. -/
def writeSqCfg (r : Nat) (v : Dword) (s : State) : State :=
  let was := bit (s.reg (Off.sqCfg r)) 0
  let s := s.setReg (Off.sqCfg r) (v &&& BitVec.ofNat 64 (writeMask (Off.sqCfg r)))
  if bit v 0 then (if was then s else enableSq r s) else disableSq r s

/-- A write of HIF_CQ_CFG. -/
def writeCqCfg (r : Nat) (v : Dword) (s : State) : State :=
  let was := bit (s.reg (Off.cqCfg r)) 0
  let s := s.setReg (Off.cqCfg r) (v &&& BitVec.ofNat 64 (writeMask (Off.cqCfg r)))
  if bit v 0 then (if was then s else enableCq r s) else (if was then disableCq r s else s)

/-- SQ_ENABLE: a write of HIF_SQ_CFG whose EN is 1 negotiates the version and resets head and tail. -/
def execSqEnable (r : Fin 16) (v : Dword) (s : State) : Host.Outcome State Fault Refusal :=
  hostWrite (slotWrite (Off.sqCfg r.val) (v ||| 1)) (writeSqCfg r.val (v ||| 1)) s

/-- SQ_DISABLE: a write of HIF_SQ_CFG whose EN is 0. -/
def execSqDisable (r : Fin 16) (v : Dword) (s : State) : Host.Outcome State Fault Refusal :=
  hostWrite (slotWrite (Off.sqCfg r.val) (v &&& ~~~1#64)) (writeSqCfg r.val (v &&& ~~~1#64)) s

/-- CQ_ENABLE: a write of HIF_CQ_CFG whose EN is 1. -/
def execCqEnable (r : Fin 16) (v : Dword) (s : State) : Host.Outcome State Fault Refusal :=
  hostWrite (slotWrite (Off.cqCfg r.val) (v ||| 1)) (writeCqCfg r.val (v ||| 1)) s

/-- CQ_DISABLE: a write of HIF_CQ_CFG whose EN is 0. -/
def execCqDisable (r : Fin 16) (v : Dword) (s : State) : Host.Outcome State Fault Refusal :=
  hostWrite (slotWrite (Off.cqCfg r.val) (v &&& ~~~1#64)) (writeCqCfg r.val (v &&& ~~~1#64)) s

/-- COALESCE_TIMEOUT: the oldest unreported entry has waited COALESCE_US, and the vector is sent (R491). -/
def execCoalesceTimeout (q : Fin 16) (s : State) : Host.Outcome State Fault Refusal :=
  let c := s.cq q.val
  if c.since = 0 || !s.linkUp then .next s
  else .next (msixSend (bits (s.reg (Off.cqCfg q.val)) 3 5) (s.setCq q.val { c with since := 0 }))

/-- Unmasks a vector, and sends its message when its pending bit is set (R491). -/
def unmask (v : Nat) (s : State) : State :=
  let x := s.vec v
  let s := s.setVec v { x with masked := false, pending := false }
  if x.pending then s.emit (.msix v x.addr x.data) else s

/-- MSIX_VECTOR_UNMASK. -/
def execMsixVectorUnmask (v : Fin 32) (s : State) : Host.Outcome State Fault Refusal :=
  if s.reachable && !s.host.d3hot then .next (unmask v.val s) else .next s

/-! ### Completion of descriptors (R482, R485, R487) -/

/-- The entry of a descriptor, with its status and the SEQ of the record that set it. -/
def descEntry (r : Nat) (d : Desc) (status : BitVec 16) (seq : Word) (s : State) : Entry :=
  { status := status, kind := 0, sq := BitVec.ofNat 4 r, sqHead := d.head, version := (s.sq r).version, applied := false,
    cookie := BitVec.ofNat 32 (bits d.raw 32 32), step := 0, firstSeq := seq, detail := 0, valueVary := 0, timingVary := 0,
    irq := bit d.raw 16 }

/-- FIRST_SEQ of an entry that no record set. -/
def noSeq : Word := 0xFFFFFFFF

/-- Takes the head descriptor off a ring, counts it completed and posts its entry. -/
def finishHead (r : Nat) (e : Entry) (s : State) : State :=
  let q := s.sq r
  cqPost (s.cqOf r) e ((s.setSq r { q with fetched := q.fetched.tail }).count Off.hifCount 0)

/-- OPCODE of a descriptor. -/
def Desc.op (d : Desc) : Nat := bits d.raw 0 8

/-- Completes malformed descriptors that have come to the head of a ring, with 0x0010 and 0x4003; a LOAD_PROGRAM is judged in its own order (R626). `k` bounds how many. -/
def advance (r : Nat) : Nat → State → State
  | 0, s => s
  | k + 1, s =>
    match (s.sq r).fetched with
    | d :: _ =>
      if d.bad && d.op != 1 then
        let seq := s.mram.nextSeq
        let s := raise { code := 0x4003, unit := 0 } s
        advance r k (finishHead r (descEntry r d 0x10 seq s) s)
      else s
    | [] => s

/-- Completes the head descriptor of a ring with an entry, then any malformed ones behind it. -/
def completeWith (r : Nat) (e : Entry) (s : State) : State :=
  let n := (s.sq r).fetched.length
  advance r n (finishHead r e s)

/-- Completes the head descriptor with a status and no record. -/
def completePlain (r : Nat) (d : Desc) (status : BitVec 16) (s : State) : State := completeWith r (descEntry r d status noSeq s) s

/-- Raises a record of a descriptor and completes it with the status that the record sets. -/
def completeRaise (r : Nat) (d : Desc) (status : BitVec 16) (c : Cause) (s : State) : State :=
  let seq := s.mram.nextSeq
  let s := raise c s
  completeWith r (descEntry r d status seq s) s

/-- Completes a descriptor that names an address the device does not permit: address status, logged, 0x4005 (R466). -/
def completeAddress (r : Nat) (d : Desc) (a : Dword) (s : State) : State :=
  completeRaise r d 0x11 { code := 0x4005, unit := 0, addr := a } (logErr 3 false 0x4005 a s)

/-- A failed request to host memory: logged, 0x4010, or 0x4011 for a read that timed out (R450). -/
def noteHost (timeout : Bool) (a : Dword) (s : State) : State :=
  let code : Code := if timeout then 0x4011 else 0x4010
  raise { code := code, unit := 0, addr := a } (logErr 2 false code a s)

/-- Completes a descriptor whose request to host memory failed: logged, 0x4010, or 0x4011 for a read that timed out (R450). -/
def completeHost (r : Nat) (d : Desc) (timeout : Bool) (a : Dword) (s : State) : State :=
  let code : Code := if timeout then 0x4011 else 0x4010
  completeRaise r d 0x19 { code := code, unit := 0, addr := a } (logErr 2 false code a s)

/-! ### Fetch (R12, R456, R460, R464, R465) -/

/-- Fields of each opcode beyond the 8-byte header, as bit offset and length (R465). -/
def opcodeFields (op : Nat) : Option (List (Nat × Nat)) :=
  match op with
  | 0 => some []
  | 1 => some [(64, 64), (128, 64), (192, 64), (256, 64), (320, 12), (336, 1)]
  | 2 => some [(64, 16)]
  | 3 => some [(64, 16), (96, 32), (128, 64)]
  | 4 => some [(64, 64), (128, 64), (192, 32), (224, 1)]
  | 5 => some []
  | 6 => some [(64, 64), (128, 64), (192, 32), (224, 1)]
  | 7 => some [(64, 64), (128, 64), (192, 32), (224, 1), (256, 64)]
  | 8 => some []
  | 9 => some [(64, 32), (96, 8), (128, 64), (192, 64), (256, 128)]
  | 10 => some [(64, 32)]
  | 11 => some [(64, 64), (128, 32)]
  | 12 => some [(64, 64), (128, 32)]
  | 13 => some [(96, 32)]
  | _ => none

/-- Are all bits outside the listed fields and the header's own zero. -/
def reservedZero (raw : BitVec 512) (fields : List (Nat × Nat)) : Bool :=
  fields.foldl (fun w f => putBits w f.1 f.2 0) (putBits (putBits raw 0 18 0) 32 32 0) == 0

/-- Further bounds on an opcode's fields: alignment of host addresses, PROGRAM_ID 0x000, PORT and ENTRIES (R465, R488). -/
def fieldsBad (raw : BitVec 512) : Bool :=
  match bits raw 0 8 with
  | 1 => bits raw 64 12 != 0 || bits raw 192 5 != 0 || bits raw 320 12 == 0
  | 2 => bits raw 64 16 == 0
  | 3 => bits raw 64 16 == 0
  | 9 => decide (1 < bits raw 96 8)
  | 12 => decide (65536 < bits raw 128 32)
  | _ => false

/-- Is a descriptor malformed for its ring (R12, R456, R465). -/
def descBad (version : Byte) (raw : BitVec 512) : Bool :=
  match opcodeFields (bits raw 0 8) with
  | none => true
  | some f => bits raw 8 8 != version.toNat || !reservedZero raw f || fieldsBad raw

/-- Groups fetched slots into descriptors: LAYOUT_COPY takes two (R465). What is left is a first slot whose second has not come. -/
def groupSlots : List (BitVec 512) → List (BitVec 512 × BitVec 512 × Nat)
  | [] => []
  | [a] => if bits a 0 8 = 5 then [] else [(a, 0, 1)]
  | a :: b :: r => if bits a 0 8 = 5 then (a, b, 2) :: groupSlots r else (a, 0, 1) :: groupSlots (b :: r)

/-- Is the copy descriptor in the second slot of a LAYOUT_COPY one whose reserved fields are not all zero (R12, R328, R465; log 110). -/
def copySlotBad (raw raw2 : BitVec 512) : Bool := bits raw 0 8 == 5 && (copyDesc raw2).reservedSet

/-- Adds a fetched descriptor to its ring; the head moves past its slots. -/
def addDesc (r : Nat) (x : BitVec 512 × BitVec 512 × Nat) (s : State) : State :=
  let q := s.sq r
  let n := max (s.sqEntries r) 1
  let head := BitVec.ofNat 16 ((q.head.toNat + x.2.2) % n)
  let d : Desc := { raw := x.1, raw2 := x.2.1, order := s.host.fetchNo, head := head, bad := descBad q.version x.1 || copySlotBad x.1 x.2.1, begun := false }
  let s := s.setSq r { q with head := head, fetched := q.fetched ++ [d] }
  { s with host := { s.host with fetchNo := s.host.fetchNo + 1 } }

/-- Slots outstanding between a ring's head and its tail. -/
def outstandingSlots (r : Nat) (s : State) : Nat :=
  let q := s.sq r
  let n := max (s.sqEntries r) 1
  (bits q.tail 0 16 + n - q.head.toNat) % n

/-- Does the head descriptor of a ring hold back its fetching: a checkpoint part, or a RUN_STEP that has not begun, while a step runs (R475, R483). -/
def headWaits (r : Nat) (s : State) : Bool :=
  match (s.sq r).fetched with
  | d :: _ => s.step.isSome && !d.begun && (d.op == 3 || d.op == 6 || d.op == 7)
  | [] => false

/-- Is a SANITIZE fetched and not yet complete, or a sanitize operation under way (R484). -/
def fencing (s : State) : Bool :=
  s.host.sanitizing.isSome || (List.range 16).any (fun r => (s.sq r).fetched.any (fun d => d.op == 8 && !d.bad))

/-- May a ring fetch (R446, R462, R475, R483, R484, R486). -/
def mayFetch (r : Nat) (s : State) : Bool :=
  let q := s.sq r
  let c := s.cq (s.cqOf r)
  s.reachable && !s.host.d3hot && q.state == .enabled && !q.stopped && !fencing s && !headWaits r s &&
  (!c.enabled || (c.held.isEmpty && decide (c.used < s.cqEntries (s.cqOf r))))

/-- DESCRIPTOR_FETCH: slots from the head up to the tail arrive, and each descriptor is checked. -/
def execDescriptorFetch (r : Fin 16) (slots : List (BitVec 512)) (s : State) : Host.Outcome State Fault Refusal :=
  if mayFetch r.val s then
    let ds := groupSlots (slots.take (outstandingSlots r.val s))
    .next (advance r.val ds.length (ds.foldl (fun s x => addDesc r.val x s) s))
  else .next s

/-! ### Beginning a descriptor (R464, R482, R484) -/

/-- Has every descriptor fetched earlier, from any ring, completed; pooled message buffers do not count (R464, R479). -/
def fenceHolds (d : Desc) (s : State) : Bool :=
  (List.range 16).all (fun r => (s.sq r).fetched.all (fun x => decide (d.order ≤ x.order)))

/-- The head descriptor of a ring with this opcode, when it may begin: not malformed, its fence holds, and no sanitize operation is under way. -/
def readyHead (r op : Nat) (s : State) : Option Desc :=
  match (s.sq r).fetched with
  | d :: _ =>
    if d.op == op && (!d.bad || op == 1) && !d.begun && s.host.sanitizing.isNone && s.linkUp && (!bit d.raw 17 || fenceHolds d s)
    then some d else none
  | [] => none

/-! ### The UCIe link (R446, R450) -/

/-- Completes every descriptor that is executing or waiting, pooled buffers included, with a status. -/
def completeEvery (status : BitVec 16) (skip : Option (Fin 16)) (s : State) : State :=
  let s := (List.finRange 16).foldl (fun s r =>
    if skip == some r then s
    else (s.sq r.val).fetched.foldl (fun s d =>
      finishHead r.val { descEntry r.val d status noSeq s with kind := if d.op == 3 && d.begun then 1 else 0 } s) s) s
  let pool := s.host.pool
  pool.foldl (fun s x => (cqPost (s.cqOf x.1.val) (descEntry x.1.val x.2 status noSeq s) s).count Off.hifCount 0)
    { s with host := { s.host with pool := [] } }

/-- UCIE_MODULE_LOST: one of the two modules cannot be repaired; the link goes on at half rate with 0x4020. -/
def execUcieModuleLost (m : Fin 2) (s : State) : Host.Outcome State Fault Refusal :=
  if s.host.modules = 2 then
    .next (raise { code := 0x4020, unit := unitId 7 0 m.val } { s with host := { s.host with modules := 1 } })
  else .next s

/-- UCIE_LINK_DOWN: neither module carries the link; 0x4021, and every descriptor executing or waiting completes with the host-access status, its entry held until the link returns. -/
def execUcieLinkDown (s : State) : Host.Outcome State Fault Refusal :=
  if s.linkUp then
    let s := { s with host := { s.host with modules := 0 } }
    .next (completeEvery 0x19 none (raise { code := 0x4021, unit := unitId 7 0 0 } s))
  else .next s

/-- UCIE_LINK_RETURN: the held completion entries are written. -/
def execUcieLinkReturn (modules : Fin 3) (s : State) : Host.Outcome State Fault Refusal :=
  if s.linkUp || modules.val = 0 || !(s.mgmt.boot == .ready || s.mgmt.boot == .recovery) then .next s
  else
    let s := { s with host := { s.host with modules := modules.val } }
    .next ((List.range 16).foldl (fun s q => cqFlush q (s.cq q).held.length s) s)

/-- A failed request to host memory of the ring's head descriptor; a running step has no request of its own, and the failure completes none. -/
def hostFailed (r : Nat) (timeout : Bool) (a : Dword) (s : State) : State :=
  match (s.sq r).fetched with
  | d :: _ => if d.bad || d.begun then noteHost timeout a s else completeHost r d timeout a s
  | [] => noteHost timeout a s

/-- HOST_REQUEST_ERROR: a request to host memory of a ring's descriptor is refused or poisoned (R450). -/
def execHostRequestError (r : Fin 16) (addr : Dword) (s : State) : Host.Outcome State Fault Refusal :=
  if s.linkUp then .next (hostFailed r.val false addr s) else .next s

/-- HOST_READ_TIMEOUT: a read gets no completion within 50 ms (R450). -/
def execHostReadTimeout (r : Fin 16) (addr : Dword) (s : State) : Host.Outcome State Fault Refusal :=
  if s.linkUp then .next (hostFailed r.val true addr s) else .next s

end Sys2Proof.Machine
end

