-- ==== Sys2Proof/Machine/Tick.lean ====
section
/-! DEFINITION. What passes with no command: one cycle of the 156.25 MHz reference (R551), on which the global counter
advances and, on a device that is not the time root, slews (R432). DESIGN CHOICE (log 16): an idle step is one cycle. -/

namespace Sys2Proof.Machine

/-- Units of 1/256 tick that reference cycle `k` of five adds (R551). -/
def cycleUnits (k : Nat) : Nat := if k = 2 ∨ k = 4 then 1639 else 1638

/-- Is the counter powered and past the 10.5 ms row (R550, R554). -/
def counterRuns (s : State) : Bool := s.mgmt.boot != .off && s.mgmt.boot != .ramping && s.mgmt.boot != .atReset

/-- One cycle of the counter: the cycle's units, and one unit of slew in at least 20,000 (50 ppm, R432). -/
def tickClock (root : Bool) (c : Clock) : Clock :=
  let u := cycleUnits c.phase.val
  let w := c.slewWait + u
  let due := !root && c.slew != 0 && decide (20000 ≤ w)
  let adj : Int := if due then (if 0 < c.slew then 1 else -1) else 0
  { c with
    time := BitVec.ofNat 72 ((c.time.toNat + u : Int) + adj).toNat
    phase := c.phase + 1
    slew := c.slew - adj
    slewWait := if due then 0 else min w 20000 }

/-- The step on an empty queue. -/
def idle (s : State) : State :=
  if counterRuns s then { s with clock := tickClock (bit (s.reg Off.timeCtl) 0) s.clock } else s

end Sys2Proof.Machine
end

