-- ==== Sys2Proof/Machine/Power.lean ====
section
/-! DEFINITION. The limiter (R533 to R535), the governor (R536 to R540), the thermal responses (R541 to R544, R430), the
floor ratio (R548), calibration (R575 to R578) and the monitors (R579, R580). -/

namespace Sys2Proof.Machine

/-! ### Rails (R530, R532, R544) -/

/-- Core supply of an operating point, mV (R530). -/
def pointVolt (i : Nat) : Nat := 550 + 50 * i

/-- Unit ids of the power stage and its sensors (R527). -/
def unitPower (i : Nat) : UnitId := unitId 12 0 i

/-- Does a tile, or one of its six stacks, stand in a response of R541, so that its rail is trimmed (R544). -/
def State.trimmed (s : State) (t : Nat) : Bool :=
  (s.tileT t).state != 0 || (List.range 6).any (fun k => (s.stackT (6 * t + k)).state != 0)

/-- The voltage that a tile's rail moves toward: the point less the limiter's trim, and at least 50 mV below the point while the tile is trimmed, never below 0.55 V (R534, R544). -/
def State.railGoal (s : State) (t : Nat) : Nat :=
  let v := s.power.target - s.power.trim
  max 550 (if s.trimmed t then min v (s.power.target - 50) else v)

/-- Moves a rail toward its goal by at most 50 mV, 10 µs at 5 mV/µs (R532). -/
def moveRail (rail goal : Nat) : Nat := if rail < goal then min goal (rail + 50) else max goal (rail - 50)

/-- Moves every core rail for 10 µs. -/
def moveRails (s : State) : State :=
  { s with power := { s.power with
    rails := (List.range 4).foldl (fun m t => Sparse.store (fun _ => 600) m t (moveRail (s.rail t) (s.railGoal t))) s.power.rails } }

/-! ### The limiter (R533 to R535) -/

/-- The effective cap in W (R533). -/
def State.cap (s : State) : Nat := min 1800 (max 300 (bits (s.act Off.pwrCap) 0 11))

/-- Does the device run: power is up and no power-down is in progress. -/
def State.powered (s : State) : Bool := counterRuns s

/-- What one evaluation of input power does to trim and hold. -/
def limit (watts cap : Nat) (floor : Bool) (p : Power) : Power :=
  if 97 * cap < 100 * watts then
    if floor then { p with hold := min 64 (p.hold + 1), below := 0 } else { p with trim := p.trim + 5, below := 0 }
  else if 100 * watts < 94 * cap then
    let n := p.below + 1
    { p with hold := p.hold - 1, below := n, trim := if 10 ≤ n then p.trim - 5 else p.trim }
  else { p with below := 0 }

/-- Adds energy in 1/100 mJ. -/
def addEnergy (n : Nat) (p : Power) : Power :=
  let f := p.energyFrac + n
  { p with energy := satAdd p.energy (f / 100), energyFrac := f % 100 }

/-- Notes in the running step that the limiter trims or holds, with 0x0030 once (R553). -/
def noteLimiting (s : State) : State :=
  match s.step with
  | some r =>
    if s.power.limiting && !r.limited then raise { code := 0x0030, unit := unitPower 0 } (s.modStep (fun r => { r with limited := true }))
    else s
  | none => s

/-- LIMITER_SAMPLE: the input sensor's evaluation of every 10 µs; the limiter trims, holds or restores, and the rails move. -/
def execLimiterSample (watts : Nat) (vin4mv : BitVec 16) (s : State) : Host.Outcome State Fault Refusal :=
  if s.powered then
    let floor := (List.range 4).all (fun t => s.rail t == 550)
    let p := addEnergy watts (limit watts s.cap floor { s.power with watts := watts, vin := vin4mv })
    let p := { p with limiting := decide (0 < p.trim) || decide (0 < p.hold) }
    .next (noteLimiting (moveRails { s with power := p }))
  else .next s

/-! ### The governor (R536 to R540, R569) -/

/-- Projected duration of point `i` against the deadline, both scaled to integers (R538). -/
def meetsDeadline (l : Ledger) (rateI rateL deadlineUs margin : Nat) : Bool :=
  let d := l.finish.toNat - l.start.toNat
  let w := min d (1000 * l.m.fabricWait)
  decide (256 * (w * rateI + (d - w) * rateL) ≤ 1000 * deadlineUs * (256 - margin) * rateI)

/-- Projected input power of point `i` against the cap, both scaled to integers (R538). -/
def fitsCap (l : Ledger) (i rateI rateL cap : Nat) : Bool :=
  let d := l.finish.toNat - l.start.toNat
  let w := min d (1000 * l.m.fabricWait)
  let vi := pointVolt i
  let vl := pointVolt l.point
  let dyn := (l.m.matrix + l.m.vector + l.m.scratch) * 1000000 * rateI * vi ^ 2 * d
  let stk := l.m.stack * 1000000 * rateI * (d - w) * vl ^ 2
  let unit := (d - w) * d * rateL * vl ^ 2
  decide (dyn + stk + Config.fixedAndLeakage i * unit ≤ cap * unit)

/-- The point that modes 1 and 2 choose, with MISS. -/
def project (mode lo hi : Nat) (l : Ledger) (s : State) : Nat × Bool :=
  let temps := (List.range 4).map (fun t => (s.tileT t).temp)
  let rateL := Config.tempoRate l.point l.temps
  let fits (i : Nat) : Bool := fitsCap l i (Config.tempoRate i temps) rateL s.cap
  let dl := s.act Off.pwrDeadline
  let deadline := bits dl 0 32
  let meets (i : Nat) : Bool := deadline == 0 || meetsDeadline l (Config.tempoRate i temps) rateL deadline (bits dl 32 8)
  let allowed := ((List.range 6).filter (fun i => decide (lo ≤ i) && decide (i ≤ hi))).filter fits
  -- R537: index 0 only where no higher index fits
  let order := if allowed.any (fun i => decide (0 < i)) then allowed.filter (fun i => decide (0 < i)) else allowed
  if mode = 2 then (allowed.getLast?.getD lo, false)
  else match order.find? meets with
    | some i => (i, false)
    | none => (allowed.getLast?.getD lo, true)

/-- The governor's choice for the next step, with MISS (R536 to R538). -/
def governorChoice (s : State) : Nat × Bool :=
  let m := s.act Off.pwrMode
  let mode := bits m 0 2
  let lo := min 5 (bits m 5 3)
  let hi := max lo (min 5 (bits m 8 3))
  if mode = 0 then (min 5 (bits m 2 3), false)
  else match s.power.lastGood with
    | none => (max 1 lo, false)
    | some l => project mode lo hi l s

/-- Sets the operating point from which every rail is trimmed (R540), with 0x5021 for a missed deadline. -/
def setPoint (x : Nat × Bool) (s : State) : State :=
  let s := { s with power := { s.power with point := x.1, miss := x.2, target := pointVolt x.1, later := none } }
  if x.2 then raise { code := 0x5021, unit := unitPower 0 } s else s

/-- Does Dealmeg firmware run. -/
def State.dealmeg (s : State) : Bool :=
  (s.mgmt.boot == .ready || s.mgmt.boot == .firmware) && !s.mgmt.resetting && !s.mgmt.halted

/-- GOVERNOR: runs once at each step boundary and sets the point of the next step; a choice that comes after the next step began waits for the following boundary (R569). -/
def execGovernor (s : State) : Host.Outcome State Fault Refusal :=
  if s.dealmeg && !s.power.chosen then
    let x := governorChoice s
    let s := { s with power := { s.power with chosen := true } }
    if s.step.isSome then .next { s with power := { s.power with later := some x } } else .next (setPoint x s)
  else .next s

/-! ### Temperatures (R541 to R544, R429, R430) -/

/-- Takes a temperature reading. -/
def readTherm (x : Therm) (v : BitVec 16) : Therm := { x with temp := v, max := tempMax x.max v }

/-- Replaces a tile's sensor, and keeps the step's maximum and flags. -/
def setTileT (t : Nat) (x : Therm) (s : State) : State :=
  { s with power := { s.power with tiles := Sparse.store thermReset s.power.tiles t x } }.modStep (fun r =>
    { r with tileHot := tempMax r.tileHot x.temp, tileResp := r.tileResp || x.state != 0 })

/-- Replaces a stack's sensor, and keeps the step's maximum and flags. -/
def setStackT (k : Nat) (x : Therm) (s : State) : State :=
  { s with power := { s.power with stackTherms := Sparse.store thermReset s.power.stackTherms k x } }.modStep (fun r =>
    { r with stackHot := tempMax r.stackHot x.temp, stackResp := r.stackResp || x.state != 0 })

/-- Is a reading above a temperature in °C. -/
def hotter (v : BitVec 16) (c : Int) : Bool := decide (16 * c < v.toInt)

/-- Is a reading below a temperature in °C. -/
def cooler (v : BitVec 16) (c : Int) : Bool := decide (v.toInt < 16 * c)

/-- STACK_OVER_95: half rate and a trimmed tile, with 0x5010. -/
def execStackOver95 (k : Fin 24) (temp : BitVec 16) (s : State) : Host.Outcome State Fault Refusal :=
  let x := s.stackT k.val
  if s.powered && x.state == 0 && hotter temp 95 then
    .next (raise { code := 0x5010, unit := unitPower (0x20 + k.val) } (setStackT k.val { readTherm x temp with state := 1 } s))
  else .next s

/-- STACK_OVER_105: the stack accepts no foreground traffic, with 0x5011; beacons carry STOPPED and the 500 µs abort timer starts (R430). -/
def execStackOver105 (k : Fin 24) (temp : BitVec 16) (s : State) : Host.Outcome State Fault Refusal :=
  let x := s.stackT k.val
  if s.powered && x.state != 2 && hotter temp 105 then
    let s := setStackT k.val { readTherm x temp with state := 2 } s
    let timer := if s.fabric.stopped then s.fabric.abortTimer else some (s.now + 500000)
    .next (raise { code := 0x5011, unit := unitPower (0x20 + k.val) } { s with fabric := { s.fabric with stopped := true, abortTimer := timer } })
  else .next s

/-- TILE_OVER_100: the tile is trimmed, with 0x5012. -/
def execTileOver100 (t : Fin 4) (temp : BitVec 16) (s : State) : Host.Outcome State Fault Refusal :=
  let x := s.tileT t.val
  if s.powered && x.state == 0 && hotter temp 100 then
    .next (raise { code := 0x5012, unit := unitPower (0x10 + t.val) } (setTileT t.val { readTherm x temp with state := 1 } s))
  else .next s

/-- No stack is stopped any more: the abort timer is cancelled and each deadline restarts (R430). -/
def resumeStacks (s : State) : State :=
  if (List.range 24).any (fun k => (s.stackT k).state == 2) then s
  else
    let d := BitVec.ofNat 64 (s.now.toNat + s.collTicks)
    { s with fabric := { s.fabric with
      stopped := false, abortTimer := none, colls := s.fabric.colls.map (fun c => { c with progress := s.now, deadline := d }) } }

/-- THERMAL_RESPONSE_CLEAR: a response ends below its clear temperature; the 105 °C response of a stack is followed by that of 95 °C. -/
def execThermalResponseClear (x : Sensor) (temp : BitVec 16) (s : State) : Host.Outcome State Fault Refusal :=
  match x with
  | .tile t =>
    let y := s.tileT t.val
    if y.state != 0 && cooler temp 95 then .next (setTileT t.val { readTherm y temp with state := 0 } s) else .next s
  | .stack k =>
    let y := s.stackT k.val
    if y.state == 2 && cooler temp 100 then
      .next (resumeStacks (setStackT k.val { readTherm y temp with state := if cooler temp 90 then 0 else 1 } s))
    else if y.state == 1 && cooler temp 90 then .next (setStackT k.val { readTherm y temp with state := 0 } s)
    else .next s

/-! ### The floor ratio (R548) -/

/-- FLOOR_FJ of PWR_FLOOR, in 1/256 fJ. -/
def floorFj : Nat := 1024

/-- FLOOR_WINDOW: the live floor ratio in 1/256, kept where the window has fewer than 10^9 weighted products. -/
def execFloorWindow (femtojoules products : Nat) (s : State) : Host.Outcome State Fault Refusal :=
  if products < 1000000000 then .next s
  else .next { s with power := { s.power with floorRatio := BitVec.ofNat 16 (min 65535 (femtojoules * 65536 / (products * floorFj))) } }

/-! ### Calibration (R575 to R578) -/

/-- Key of a calibration setting: unit, tempo region and operating point. -/
def calKey (unit : UnitId) (region point : Nat) : Nat := (8 * unit.toNat + region) * 8 + point

/-- The setting of a region at an operating point; its fused floor when it has not moved. -/
def State.setting (s : State) (unit : UnitId) (region point : Nat) : Nat :=
  (Sparse.look (fun _ => none) s.mgmt.settings (calKey unit region point)).getD (Config.calibrationFloor region)

/-- Sets a region's setting at an operating point. -/
def setSetting (unit : UnitId) (region point v : Nat) (s : State) : State :=
  { s with mgmt := { s.mgmt with settings := Sparse.store (fun _ => none) s.mgmt.settings (calKey unit region point) (some v) } }

/-- The operating point whose setting a unit's region uses: at a voltage between two points, the one with the larger setting (R578). -/
def State.calPoint (s : State) (unit : UnitId) (region : Nat) : Nat :=
  let v := if bits unit 12 4 = 1 ∨ bits unit 12 4 = 2 then s.rail (bits unit 10 2) else s.power.target
  let a := min 5 ((v - 550) / 50)
  if (v - 550) % 50 = 0 then a
  else
    let b := min 5 (a + 1)
    if s.setting unit region a < s.setting unit region b then b else a

/-- CALIBRATION_DISAGREE: the setting is raised by 1 and counted; at 63 it is 0x2089 instead (R576, R577). -/
def execCalibrationDisagree (unit : UnitId) (region : Fin 6) (s : State) : Host.Outcome State Fault Refusal :=
  let p := s.calPoint unit region.val
  let v := s.setting unit region.val p
  if 63 ≤ v then .next (raise { code := 0x2089, unit := unit } s)
  else .next ((setSetting unit region.val p (v + 1) s).count Off.mgtCount 4)

/-- CALIBRATION_RELAX: 2^24 agreeing comparisons in a row lower the setting by 1, not below the fused floor (R576). -/
def execCalibrationRelax (unit : UnitId) (region : Fin 6) (s : State) : Host.Outcome State Fault Refusal :=
  let p := s.calPoint unit region.val
  let v := s.setting unit region.val p
  if s.dealmeg && decide (Config.calibrationFloor region.val < v) then
    .next ((setSetting unit region.val p (v - 1) s).count Off.mgtCount 5)
  else .next s

/-- Saves the calibration settings and the energy count to the MRAM (R578). -/
def saveCalibration (s : State) : State := { s with mram := { s.mram with calibration := s.mgmt.settings, energy := s.power.energy } }

/-- CALIBRATION_SAVE: every 60 s. -/
def execCalibrationSave (s : State) : Host.Outcome State Fault Refusal :=
  if s.mgmt.boot == .ready then .next (saveCalibration s) else .next s

/-! ### Monitors (R579, R580) -/

/-- A monitor at reset, and after CLEAR apart from LAST (16). -/
def monReset (_ : Nat) : Monitor := { min := 0x7FFFFFFF, max := 0x80000000, last := 0, bins := [] }

/-- A monitor. -/
def State.monitor (s : State) (m : Nat) : Monitor := Sparse.look monReset s.mgmt.monitors m

/-- Replaces a monitor. -/
def setMonitor (m : Nat) (x : Monitor) (s : State) : State :=
  { s with mgmt := { s.mgmt with monitors := Sparse.store monReset s.mgmt.monitors m x } }

/-- Does a unit carry a quantity (R579). -/
def carries (qty region : Nat) (unit : UnitId) : Bool :=
  let cls := bits unit 12 4
  let i := bits unit 0 10
  match qty with
  | 0 => cls == 1 && decide (region < 6) && decide (i < 68)
  | 1 => cls == 12 && ((decide (0x10 ≤ i) && decide (i < 0x14)) || (decide (0x20 ≤ i) && decide (i < 0x38)) || i == 0x40)
  | 2 => cls == 12 && decide (i < 12)
  | 3 => unit == unitPower 0
  | 4 => cls == 3 && decide (i < 96)
  | _ => false

/-- The bin that a sample falls in (R580). -/
def binOf (v base : Word) (shift : Nat) : Nat := (min 15 (max 0 ((v.toInt - base.toInt) / (2 ^ shift : Nat)))).toNat

/-- Takes one sample. -/
def sampleMonitor (cfg : Dword) (v : Word) (x : Monitor) : Monitor :=
  let b := binOf v (BitVec.ofNat 32 (bits cfg 32 32)) (bits cfg 24 5)
  let n := (Sparse.look (fun _ => 0) x.bins b).toNat
  { min := if v.toInt < x.min.toInt then v else x.min
    max := if x.max.toInt < v.toInt then v else x.max
    last := v
    bins := Sparse.store (fun _ => 0) x.bins b (BitVec.ofNat 32 (min (n + 1) (2 ^ 32 - 1))) }

/-- A temperature sample is a reading of the sensor that PWR_TILE or PWR_STACK reports. -/
def sampleSensor (cfg : Dword) (v : Word) (s : State) : State :=
  let i := bits cfg 0 10
  let w := BitVec.ofNat 16 v.toNat
  if bits cfg 16 4 = 1 ∧ 0x10 ≤ i ∧ i < 0x14 then setTileT (i - 0x10) (readTherm (s.tileT (i - 0x10)) w) s
  else if bits cfg 16 4 = 1 ∧ 0x20 ≤ i ∧ i < 0x38 then setStackT (i - 0x20) (readTherm (s.stackT (i - 0x20)) w) s
  else s

/-- MONITOR_SAMPLE: an enabled monitor whose unit carries its quantity updates MIN, MAX, LAST and its histogram. -/
def execMonitorSample (m : Fin 64) (v : BitVec 32) (s : State) : Host.Outcome State Fault Refusal :=
  let cfg := s.reg (Off.monCfg m.val)
  if bit cfg 23 && carries (bits cfg 16 4) (bits cfg 20 3) (BitVec.ofNat 16 (bits cfg 0 16)) then
    .next (setMonitor m.val (sampleMonitor cfg v (s.monitor m.val)) (sampleSensor cfg v s))
  else .next s

/-- A write of MON_CFG: its fields, and with CLEAR the reset of MIN, MAX and the bins. -/
def writeMonCfg (m : Nat) (v : Dword) (s : State) : State :=
  let s := s.setReg (Off.monCfg m) (v &&& BitVec.ofNat 64 (writeMask (Off.monCfg m)))
  if bit v 29 then setMonitor m { monReset m with last := (s.monitor m).last } s else s

/-- MONITOR_CLEAR: a write of MON_CFG with CLEAR = 1. -/
def execMonitorClear (m : Fin 64) (v : Dword) (s : State) : Host.Outcome State Fault Refusal :=
  hostWrite (slotWrite (Off.monCfg m.val) (v ||| 0x20000000)) (writeMonCfg m.val (v ||| 0x20000000)) s

end Sys2Proof.Machine
end

