-- ==== Sys2Proof/Machine/Log.lean ====
section
/-! DEFINITION. The pentimento log (R384 to R386) and the queue that feeds it (R571). -/

namespace Sys2Proof.Machine

/-- Positions of the ring (R384). -/
def ringSize : Nat := 983040

/-- Slots of the pinned area (R384). -/
def pinnedSize : Nat := 65536

/-- Is a record pinned: the memory records, 0x2066, 0x2083 and a permanent 0x2085 (R385). -/
def isPinned (r : Record) : Bool :=
  r.code ∈ [(0x1003 : Code), 0x1004, 0x1005, 0x2066, 0x2083] || (r.code == 0x2085 && bits r.flags 3 2 == 2)

/-- Writes a record into the ring, over the oldest one when it is full. -/
def ringWrite (r : Record) (s : State) : State :=
  let m := s.mram
  let beyond := (Sparse.look (fun _ => none) m.ring m.ringNext).isSome
  { s with mram := { m with
    ring := Sparse.store (fun _ => none) m.ring m.ringNext (some r)
    ringNext := (m.ringNext + 1) % ringSize
    ringWrapped := m.ringWrapped || beyond } }

/-- Writes a record into the next free slot of the pinned area, with PINNED set. -/
def pinnedWrite (r : Record) (s : State) : State :=
  let m := s.mram
  { s with mram := { m with
    pinned := Sparse.store (fun _ => none) m.pinned m.pinnedUsed (some (sealRecord { r with flags := r.flags ||| 0x80 }))
    pinnedUsed := m.pinnedUsed + 1 } }

/-- Writes one record of the queue where R385 and R386 put it. -/
def writeRecord (r : Record) (s : State) : State :=
  if isPinned r then
    if s.mram.pinnedUsed < pinnedSize then pinnedWrite r s
    else
      let first := !s.mram.pinnedFull
      let s := ringWrite r { s with mram := { s.mram with pinnedFull := true } }
      if first then raise { code := 0x7010, unit := unitId 11 0 0 } s else s
  else ringWrite r s

/-- Writes the record 0x7030 that follows a loss, with the number lost in DETAIL (R571). -/
def writeLoss (s : State) : State :=
  let r := recordOf { code := 0x7030, unit := unitId 9 0 0, detail := BitVec.ofNat 32 s.mgmt.lost } s
  let s := { s with mram := { s.mram with nextSeq := s.mram.nextSeq + 1 }, free := s.free + 2, mgmt := { s.mgmt with lost := 0 } }
  ringWrite r (eventEntry r (stepMark r s))

/-- Writes the next record: that of a loss, else the oldest of the queue. -/
def drainOne (s : State) : State :=
  if 0 < s.mgmt.lost then writeLoss s
  else match s.mgmt.queue with
    | [] => s
    | r :: rest => writeRecord r { s with mgmt := { s.mgmt with queue := rest } }

/-- LOG_DRAIN: Dealmeg writes one queued record into the log (R385), except where overload stops it (R570). -/
def execLogDrain (s : State) : Host.Outcome State Fault Refusal :=
  if s.dealmeg && !s.mgmt.drainStopped then .next (drainOne s) else .next s

/-- Writes every queued record; `k` bounds how many. -/
def drainAll : Nat → State → State
  | 0, s => s
  | k + 1, s => if s.mgmt.lost = 0 ∧ s.mgmt.queue = [] then s else drainAll k (drainOne s)

end Sys2Proof.Machine
end

