-- ==== Sys2Proof/Machine/Reliability.lean ====
section
/-! DEFINITION. Classification (R359 to R361), spares and quarantine (R363 to R366), placement epochs (R370), in-field tests
(R373 to R377) and the arming of injections (R381). -/

namespace Sys2Proof.Machine

/-! ### Moves of a logical core (R370) -/

/-- A logical core by tile and number. -/
def coreAt (t k : Nat) : Option CoreRef := if h : t < 4 ∧ k < 64 then some ⟨⟨t, h.1⟩, ⟨k, h.2⟩⟩ else none

/-- The placement epoch of a logical core. -/
def State.placeEpochOf (s : State) (t k : Nat) : BitVec 16 := match coreAt t k with | some c => (s.core c).placeEpoch | none => 0

/-- Advances the placement epoch of a logical core, whose work moves. -/
def bumpEpoch (t k : Nat) (s : State) : State :=
  match coreAt t k with
  | some c => s.modCore c (fun x => { x with placeEpoch := x.placeEpoch + 1, dropSeen := false })
  | none => s

/-- Unit id of a physical core. -/
def unitCore (t p : Nat) : UnitId := unitId 1 t p

/-- The confirmation test under way on a tile. -/
def State.confirmOf (s : State) (t : Nat) : Option Confirm := Sparse.look (fun _ => none) s.confirm t

/-- Sets the confirmation test of a tile. -/
def setConfirm (t : Nat) (x : Option Confirm) (s : State) : State := { s with confirm := Sparse.store (fun _ => none) s.confirm t x }

/-- State of a physical core that carries a logical core: a spare by the module's own map carries work as a spare (R363). -/
def carrying (t p : Nat) (s : State) : PhysState := if (physDefault s.rom (68 * t + p)).logical.isSome then .active else .spareCarrying

/-! ### Quarantine (R363, R366) -/

/-- Marks a physical core quarantined, and counts it. -/
def markQuarantined (t p : Nat) (s : State) : State :=
  (s.setPh t p { s.ph t p with state := .quarantined, logical := none, due := false, segsLeft := 0, spare := none }).count Off.relCount 5

/-- Gives the confirmation test to the lowest-numbered free spare, or, with none left, raises 0x2084 and leaves the logical core unplaced. -/
def trySpare (t k old : Nat) (rcd : Word) (history elimination : Bool) (s : State) : State :=
  match s.freeSpare t with
  | some p =>
    let s := s.setPh t p { s.ph t p with state := .underTest }
    setConfirm t (some (.spare k old p rcd history elimination)) s
  | none =>
    raise { code := 0x2084, unit := unitCore t old, epoch := s.placeEpochOf t k, detail := rcd, cls := some 2,
            history := history, elimination := elimination } (markQuarantined t old s)

/-- Raises the pinned record 0x2083 of a core that is quarantined (R363). -/
def raiseQuarantined (t p : Nat) (epoch : BitVec 16) (rcd : Word) (history elimination : Bool) (s : State) : State :=
  raise { code := 0x2083, unit := unitCore t p, epoch := epoch, detail := rcd, cls := some 2, history := history, elimination := elimination } s

/-- Quarantines a physical core, unless it is out of service already: it is fenced and a spare sought for the work it carries (R363), and one that carries none is only marked, with 0x2083 (log 139). -/
def quarantine (t p : Nat) (rcd : Word) (history elimination : Bool) (s : State) : State :=
  let x := s.ph t p
  if x.state == .quarantined || x.state == .fusedOff then s
  else match x.logical with
    | some k => trySpare t k p rcd history elimination (bumpEpoch t k (s.setPh t p { x with logical := none, last := some k }))
    | none => raiseQuarantined t p 0 rcd history elimination (markQuarantined t p s)

/-- Begins a due task. -/
def beginDue (d : Due) (s : State) : State :=
  match d with
  | .quarantine t p r h e => quarantine t p r h e s
  | .suspects t cores consumed r leave => setConfirm t (some (.suspects cores [] consumed r leave)) s

/-- Begins the due tasks of a tile, in order, as long as no confirmation test runs on it; `k` bounds how many. -/
def runDue (t : Nat) : Nat → State → State
  | 0, s => s
  | k + 1, s =>
    if (s.confirmOf t).isSome then s
    else match s.due.find? (fun d => d.tile == t) with
      | none => s
      | some d => runDue t k (beginDue d { s with due := s.due.erase d })

/-- The spare has passed: it takes the logical core, the old core is quarantined, and the pinned record 0x2083 is raised (R363). -/
def takeOver (t k old p : Nat) (rcd : Word) (history elimination : Bool) (s : State) : State :=
  let s := s.setPh t p { s.ph t p with state := .spareCarrying, logical := some k }
  let s := markQuarantined t old s
  let s := s.setPh t old { s.ph t old with last := none }
  raiseQuarantined t old (s.placeEpochOf t k) rcd history elimination s

/-- The record of a permanent outcome that takes no unit out of service: 0x0013 with CLASS 2 (log 142). -/
def permanentNote (unit : UnitId) (rcd : Word) (history elimination injected : Bool) (s : State) : State :=
  raise { code := 0x0013, unit := unit, detail := rcd, cls := some 2, history := history, elimination := elimination, injected := injected } s

/-- The verdict on the two cores of a recurring mismatch: those that failed are permanent, else the one whose result was consumed, by elimination (R361). -/
def verdict (t : Nat) (bad : List Nat) (consumed : Nat) (rcd : Word) (leave : Bool) (s : State) : State :=
  let elim := bad.isEmpty
  let perm := if elim then [consumed] else bad
  let s := s.count Off.relCount 4 perm.length
  if leave then { s with due := perm.map (fun p => .quarantine t p rcd false elim) ++ s.due }
  else perm.foldl (fun s p => permanentNote (unitCore t p) rcd false elim true s) s

/-! ### In-field tests (R373 to R377) -/

/-- Segments of a whole test of 40 ms (R374); SEG_MS acts as 1 to 20. -/
def segmentsOf (s : State) : Nat :=
  let v := min 20 (max 1 (bits (s.act Off.iftCtl) 16 5))
  (40 + v - 1) / v

/-- Are in-field tests enabled, and does Dealmeg run to begin them (R373, R573). -/
def iftOn (s : State) : Bool := bit (s.act Off.iftCtl) 0 && s.dealmeg

/-- Is a core of the tile under test. -/
def testing (t : Nat) (s : State) : Bool := (List.range 68).any (fun p => (s.ph t p).state == .underTest)

/-- Begins the test of a due spare that carries no work, at any time (R376), one core of a tile at a time (R373). -/
def startSpareTest (t : Nat) (s : State) : State :=
  if testing t s || (s.confirmOf t).isSome then s
  else match (List.range 68).find? (fun p => (s.ph t p).due && (s.ph t p).state == .freeSpare) with
    | some p => s.setPh t p { s.ph t p with state := .underTest }
    | none => s

/-- Is a physical core in service: neither fused off nor quarantined. -/
def inServiceCore (s : State) (t p : Nat) : Bool := (s.ph t p).state != .fusedOff && (s.ph t p).state != .quarantined

/-- The core of a tile whose turn comes next: the one in service after the last, going round (R373; log 143). -/
def nextTurn (t : Nat) (s : State) : Option Nat :=
  let l := (List.range 68).filter (inServiceCore s t)
  match Sparse.look (fun _ => none) s.turns t with
  | some x => (match l.find? (fun p => decide (x.1 < p)) with
    | some p => some p
    | none => l.head?)
  | none => l.head?

/-- Has the interval since a tile's last turn passed: INTERVAL_H hours over its cores in service, where 0 acts as 1 (R373). -/
def turnReached (t : Nat) (s : State) : Bool :=
  match Sparse.look (fun _ => none) s.turns t with
  | none => true
  | some x =>
    let n := ((List.range 68).filter (inServiceCore s t)).length
    decide (x.2.toNat + max 1 (bits (s.act Off.iftCtl) 8 8) * 3600 * 1000000000 / n ≤ s.now.toNat)

/-- IFT_DUE: the core whose turn it is falls due for its test; one whose test is still to end takes its turn with that test. -/
def execIftDue (t : Fin 4) (p : Fin 68) (s : State) : Host.Outcome State Fault Refusal :=
  if iftOn s && nextTurn t.val s == some p.val && turnReached t.val s then
    let s := { s with turns := Sparse.store (fun _ => none) s.turns t.val (some (p.val, s.now)) }
    let x := s.ph t.val p.val
    if x.due then .next s
    else .next (startSpareTest t.val (s.setPh t.val p.val { x with due := true, segsLeft := segmentsOf s, retried := false, waiting := false }))
  else .next s

/-- Is a core the spare of a confirmation test. -/
def isConfirming (t p : Nat) (s : State) : Bool := match s.confirmOf t with | some (.spare _ _ q _ _ _) => q == p | _ => false

/-- A segment's run has ended for good: the test goes on, or is over. -/
def endSegment (t p : Nat) (s : State) : State :=
  let x := s.ph t p
  let n := x.segsLeft - 1
  let s := s.count Off.relCount 6
  let y := { x with segsLeft := n, retried := false, due := x.due && decide (0 < n) }
  if n = 0 ∧ x.spare.isNone then startSpareTest t (s.setPh t p { y with state := .freeSpare }) else s.setPh t p y

/-- A second failure in a row: permanent, recorded with 0x2085; a spare is quarantined at once, an active core at the boundary (R377). -/
def failTest (t p : Nat) (s : State) : State :=
  let x := s.ph t p
  let seq := s.mram.nextSeq
  let s := raise { code := 0x2085, unit := unitCore t p, cls := some 2 } ((s.count Off.relCount 6).count Off.relCount 4)
  match x.spare with
  | none => startSpareTest t (markQuarantined t p s)
  | some _ => dueQuarantine (unitCore t p) seq false false (s.setPh t p { x with segsLeft := 0, retried := false, due := false })

/-- IFT_SEGMENT_DONE: a segment ends; a failed one runs again at once, and its second run decides (R377). -/
def execIftSegmentDone (t : Fin 4) (p : Fin 68) (pass : Bool) (s : State) : Host.Outcome State Fault Refusal :=
  let x := s.ph t.val p.val
  if x.state == .underTest && decide (0 < x.segsLeft) && !isConfirming t.val p.val s then
    if pass then
      let s := if x.retried then raise { code := 0x2085, unit := unitCore t.val p.val, cls := some 1 } (s.count Off.relCount 3) else s
      .next (endSegment t.val p.val s)
    else if x.retried then .next (failTest t.val p.val s)
    else .next (s.setPh t.val p.val { x with retried := true })
  else .next s

/-! ### The order of a step boundary (R365, R375) -/

/-- Returns the core of a tile whose work a spare carries during its test; a running segment is abandoned and counted. -/
def returnTest (t : Nat) (s : State) (p : Nat) : State :=
  let x := s.ph t p
  match x.state, x.spare with
  | .underTest, some q =>
    let y := s.ph t q
    let s := if 0 < x.segsLeft then s.count Off.relCount 8 else s
    let s := s.setPh t p { x with state := carrying t p s, logical := y.logical, spare := none, retried := false }
    let s := s.setPh t q { y with state := .freeSpare, logical := none }
    (match y.logical with | some k => bumpEpoch t k s | none => s)
  | _, _ => s

/-- Abandons the test of a spare that carries no work, so that a quarantine finds it free (R365, R373; log 144). -/
def freeTested (t : Nat) (s : State) (p : Nat) : State :=
  let x := s.ph t p
  if x.state == .underTest && x.spare.isNone && !isConfirming t p s then
    (s.setPh t p { x with state := .freeSpare, retried := false }).count Off.relCount 8
  else s

/-- Is a core due for a test that needs its work moved. -/
def wantsTest (s : State) (t p : Nat) : Bool := (s.ph t p).due && (s.ph t p).logical.isSome

/-- The wait of a due test begins, with 0x0011 once (R376). -/
def beginWait (t : Nat) (s : State) (p : Nat) : State :=
  let x := s.ph t p
  if wantsTest s t p && !x.waiting then raise { code := 0x0011, unit := unitCore t p } (s.setPh t p { x with waiting := true }) else s

/-- Moves the work of a due core to a free spare and begins its test (R375). -/
def moveToSpare (t p : Nat) (s : State) : State :=
  let x := s.ph t p
  match s.freeSpare t, x.logical with
  | some q, some k =>
    let s := s.setPh t p { x with state := .underTest, logical := none, spare := some q, waiting := false }
    bumpEpoch t k (s.setPh t q { s.ph t q with state := .spareCarrying, logical := some k })
  | _, _ => s

/-- Gives the due tests of a tile the spares that are left: one core starts unless one is under test, and where no spare is free the others begin their wait (R365, R373, R375, R376). -/
def startTest (t : Nat) (s : State) : State :=
  let s :=
    if testing t s || (s.confirmOf t).isSome then s
    else match (List.range 68).find? (wantsTest s t) with
      | none => startSpareTest t s
      | some p => moveToSpare t p s
  if (s.freeSpare t).isNone then (List.range 68).foldl (beginWait t) s else s

/-- What a step boundary does to a tile's cores: returns, then quarantines, then tests. Quarantines and tests wait while Dealmeg does not run (R573). -/
def boundaryTile (s : State) (t : Nat) : State :=
  let s := (List.range 68).foldl (returnTest t) s
  if s.dealmeg then
    let s := if s.due.any (fun d => d.tile == t) then (List.range 68).foldl (freeTested t) s else s
    let s := runDue t (s.due.length + 1) s
    if iftOn s then startTest t s else s
  else s

/-- A confirmation test is over: the tile's next due task begins, and after the last the tests take the spares that remain (R365). -/
def afterConfirm (t : Nat) (s : State) : State :=
  let s := runDue t (s.due.length + 1) s
  if (s.confirmOf t).isNone && iftOn s then startTest t s else s

/-- CONFIRMATION_TEST_DONE: the confirmation test on a tile ends for the core under test (R361, R363). -/
def execConfirmationTestDone (t : Fin 4) (pass : Bool) (s : State) : Host.Outcome State Fault Refusal :=
  match s.confirmOf t.val with
  | none => .next s
  | some (.spare k old p r h e) =>
    let s := setConfirm t.val none s
    if pass then .next (afterConfirm t.val (takeOver t.val k old p r h e s))
    else
      let s := raise { code := 0x2085, unit := unitCore t.val p, cls := some 2 } (markQuarantined t.val p (s.count Off.relCount 4))
      .next (afterConfirm t.val (trySpare t.val k old r h e s))
  | some (.suspects cores bad consumed r leave) =>
    let bad := if pass then bad else bad ++ cores.take 1
    if (cores.drop 1).isEmpty then .next (afterConfirm t.val (verdict t.val bad consumed r leave (setConfirm t.val none s)))
    else .next (setConfirm t.val (some (.suspects (cores.drop 1) bad consumed r leave)) s)

/-! ### Classification (R359, R360) -/

/-- 720 hours in ticks. -/
def historyTicks : Nat := 720 * 3600 * 1000000000

/-- Earlier silent or data records of a unit in the ring, within the preceding 720 hours (R360). -/
def historyCount (u : Unclassified) (s : State) : Nat :=
  (s.mram.ring.filter (fun x => match x.2 with
    | some r =>
      (disposition r.code == .silent || disposition r.code == .data) && r.unit == u.unit && decide (r.seq.toNat < u.seq.toNat) &&
      decide (r.time.toNat ≤ s.now.toNat) && decide (s.now.toNat ≤ r.time.toNat + historyTicks)
    | none => false)).length

/-- The record 0x0013 of a fault classified transient, and its count (R390; log 140). -/
def transient (u : Unclassified) (history : Bool) (s : State) : State :=
  raise { code := 0x0013, unit := u.unit, detail := u.seq, cls := some 1, history := history, injected := u.injected }
    (s.count Off.relCount 3)

/-- A fault classified permanent from history: counted, and its core due for quarantine, whose record carries BY_HISTORY. A unit that stays in service has a record of its own (R360, R363, R383; log 142). -/
def permanentByHistory (u : Unclassified) (s : State) : State :=
  let s := s.count Off.relCount 4
  if bits u.unit 12 4 = 1 ∧ spared u.injected s = false then dueQuarantine u.unit u.seq true false s
  else permanentNote u.unit u.seq true false u.injected s

/-- CLASSIFY_BY_HISTORY: no replay has followed within 16 steps, or the step held a command marked may-vary in value. -/
def execClassifyByHistory (seq : BitVec 32) (s : State) : Host.Outcome State Fault Refusal :=
  match s.unclassified.find? (fun u => u.seq == seq) with
  | none => .next s
  | some u =>
    if s.dealmeg && (decide (16 ≤ u.steps) || u.vary) then
      let s := { s with unclassified := s.unclassified.erase u }
      .next (if 2 ≤ historyCount u s then permanentByHistory u s else transient u true s)
    else .next s

/-- What a step's end does to the open faults: a replay that did not repeat one makes it transient, the others age by a step, and the step's own are added (R359, R360). -/
def classifyStep (r : StepRun) (s : State) : State :=
  let now_ (u : Unclassified) : Bool := r.replay && u.steps == 0 && !u.vary
  let beyond := s.unclassified.filter (fun u => now_ u && !u.permanent)
  let rest := (s.unclassified.filter (fun u => !now_ u && !u.permanent)).map (fun u => { u with steps := u.steps + 1 })
  let new_ : List Unclassified := r.faults.map (fun f =>
    { code := f.1, unit := f.2.1, seq := f.2.2.1, steps := 0, vary := decide (0 < r.valueVary), injected := f.2.2.2, permanent := false })
  beyond.foldl (fun s u => transient u false s) { s with unclassified := rest ++ new_ }

/-! ### Arming an injection (R381) -/

/-- A write of CMP_INJECT_CTL: ARM = 1 outside a test job is ignored with 0x6010. -/
def writeInjectCtl (v : Dword) (s : State) : State :=
  if bit v 0 && !mayInject s then raise { code := 0x6010, unit := 0 } s
  else s.setReg Off.injectCtl (v &&& BitVec.ofNat 64 (writeMask Off.injectCtl))

/-- CMP_INJECT_ARM: a write of CMP_INJECT_CTL with ARM = 1. -/
def execCmpInjectArm (v : Word) (s : State) : Host.Outcome State Fault Refusal :=
  let w : Dword := v.setWidth 64 ||| 1
  hostWrite (slotWrite Off.injectCtl w) (writeInjectCtl w) s

end Sys2Proof.Machine
end

