-- ==== Sys2Proof/Machine/Jobs.lean ====
section
/-! DEFINITION. Descriptors that load, run and unload programs and that move data (12, 13): NOP, LOAD_PROGRAM, UNLOAD,
RUN_STEP, TRANSFER and LAYOUT_COPY. -/

namespace Sys2Proof.Machine

/-- Carries out the descriptor at the head of a ring once it may begin. -/
def atHead (r : Fin 16) (op : Nat) (f : Desc → State → State) (s : State) : Host.Outcome State Fault Refusal :=
  match readyHead r.val op s with
  | some d => .next (f d s)
  | none => .next s

/-- NOP: completes with success. -/
def execNop (r : Fin 16) (s : State) : Host.Outcome State Fault Refusal := atHead r 0 (fun d s => completePlain r.val d 0 s) s

/-! ### The shape word (R500, R501) -/

/-- Is a physical core neither fused off nor quarantined. -/
def PhysCore.working (p : PhysCore) : Bool := p.state != .fusedOff && p.state != .quarantined

/-- Working physical cores of a tile, ascending. -/
def State.workingCores (s : State) (t : Nat) : List Nat := (List.range 68).filter (fun p => (s.ph t p).working)

/-- Logical cores that a tile can place (R501). -/
def State.canPlace (s : State) (t : Nat) : Nat := min (activeCores s.rom) (s.workingCores t).length

/-- CORES of the shape word (R501). -/
def State.shapeCores (s : State) : Nat := min (min (s.canPlace 0) (s.canPlace 1)) (min (s.canPlace 2) (s.canPlace 3))

/-- The device's shape word (R500). -/
def State.shape (s : State) : Dword := BitVec.ofNat 64 (1 + 2 ^ 8 + 2 ^ 16 * 3 + 2 ^ 24 * s.shapeCores)

/-! ### LOAD_PROGRAM (R468, R502, R626) -/

/-- Do two region declarations of one memory overlap. -/
def declClash (a b : RegionDecl) : Bool :=
  a.tile == b.tile && a.core == b.core && a.space == b.space &&
  (a.id == b.id || (decide (a.base < b.base + b.size) && decide (b.base < a.base + a.size)))

/-- Do two declarations of a list clash. -/
def declsClash : List RegionDecl → Bool
  | [] => false
  | x :: r => r.any (declClash x) || declsClash r

/-- Does a region declaration satisfy R43 and R468. -/
def declOk (cores : Nat) (d : RegionDecl) : Bool :=
  decide (d.tile < 4) && decide (d.core < cores) && decide (d.id < 64) && decide (d.base % 4096 = 0) && decide (d.size % 4096 = 0) &&
  decide (0 < d.size) && decide (d.base + d.size ≤ spaceSize d.space)

/-- Does a core declare at most 16 operand-cache regions (R207). -/
def cachesOk (l : List RegionDecl) : Bool :=
  l.all (fun d => decide ((l.filter (fun x => x.space == .oc && x.tile == d.tile && x.core == d.core)).length ≤ 16))

/-- Does the FP32 size of a bucket lie from 4 to 256 MiB (R262; a bucket of size zero is an error, R57; log 151). -/
def bucketOk (b : Bucket) : Bool := decide (2 ^ 22 ≤ b.bytes) && decide (b.bytes ≤ 2 ^ 28)

/-- Logical cores that an image uses on each tile: half of them in full redundancy (R502, R503). -/
def imageCores (i : Image) (s : State) : Nat := if i.fullRedundancy then s.shapeCores / 2 else s.shapeCores

/-- Does the content of an image pass check 7 of R626 (R43, R274, R254, R262, R412, R503). -/
def contentOk (i : Image) (s : State) : Bool :=
  i.regions.all (declOk (imageCores i s)) && !declsClash i.regions && cachesOk i.regions &&
  i.work.all (fun w => decide (w.1 < 4) && decide (w.2 < imageCores i s)) &&
  i.palettes.all (fun p => decide (p.1.core.val < imageCores i s)) &&
  i.allocations.all (fun a => decide (0 < a.2) && s.inCapacity a.1 a.2) &&
  i.microtables.all (fun m => decide (1 ≤ m.length) && decide (m.length ≤ 64)) && i.buckets.all bucketOk &&
  (!i.needsFabric || (!s.fabric.noFabric && !s.inService.isEmpty))

/-- Does the determinism class of an image allow a mark (R511, R512). -/
def markAllowed (cls : Nat) (m : Mark) : Bool :=
  match m with
  | .none => true
  | .timing => decide (1 ≤ cls)
  | .value => decide (2 ≤ cls)

/-- Checks 4 to 7 of R626: the status and code of the first that fails. -/
def imageRefusal (i : Image) (s : State) : Option (BitVec 16 × Code) :=
  if i.major ≠ 1 ∨ 2 < i.minor then some (0x13, 0x4031)
  else if i.shape ≠ s.shape then some (0x14, 0x4030)
  else if i.marks.any (fun m => !markAllowed i.cls m) then some (0x13, 0x4032)
  else if !contentOk i s then some (0x13, 0x4033)
  else none

/-- The entry of a physical core as LOAD_PROGRAM leaves it: the first CORES working cores of a tile carry the logical cores in ascending order, and the rest are free spares (R502). A test under way keeps its remaining segments. -/
def placePhys (cores rank : Nat) (x : PhysCore) : PhysCore :=
  let p := { x with last := none }
  if !p.working then p
  else if rank < cores then { p with state := .active, logical := some rank, spare := none }
  else if p.state == .underTest then { p with logical := none, spare := none }
  else { p with state := .freeSpare, logical := none, spare := none }

/-- Places the logical cores (R502). -/
def placeAll (s : State) : State :=
  let n := s.shapeCores
  (List.range 4).foldl (fun s t =>
    ((List.range 68).foldl (fun (x : Nat × State) p =>
      (x.1 + flag (x.2.ph t p).working, x.2.setPh t p (placePhys n x.1 (x.2.ph t p)))) (0, s)).2) s

/-- A core as it stands before a program's regions and palettes are written: queues, tokens, epochs and positions at their start. -/
def freshCore (k : CoreSt) : CoreSt :=
  { k with queues := [], stalled := none, running := [], tokens := [], index := 0, vcount := 0, regions := [], palettes := [], blocks := [],
           pepper := [], placeEpoch := 0, dropSeen := false, samples := [], remote := none }

/-- Declares a region with epoch 0 open for writing (R44). -/
def declare (s : State) (d : RegionDecl) : State :=
  if h : d.tile < 4 ∧ d.core < 64 then
    s.modCore ⟨⟨d.tile, h.1⟩, ⟨d.core, h.2⟩⟩ (fun k => k.setRegion d.space d.id { base := d.base, size := d.size, epoch := 0, owner := none })
  else s

/-- Number of an engine in palette keys. -/
def palKey (e : Engine) (i : Nat) : Nat := 4096 * (match e with | .matrix => 0 | .vector => 1 | .stream => 2) + i

/-- Stores consecutive palette entries. -/
def putPalette (e : Engine) : Nat → List Nat → Sparse Nat → Sparse Nat
  | _, [], m => m
  | i, v :: r, m => putPalette e (i + 1) r (Sparse.store (fun _ => 0) m (palKey e i) v)

/-- Extends a measurement register (R561). -/
def extendMeas (n : Nat) (d : Digest) (s : State) : State :=
  let m := Sparse.look (fun _ => 0) s.sec.meas n
  let v := sha256 (leBytes 32 m.toNat ++ leBytes 32 d.toNat)
  { s with sec := { s.sec with meas := Sparse.store (fun _ => 0) s.sec.meas n v } }

/-- Loads an accepted image: placement, regions, palettes, M3, and the launch (R38, R44, R370, R435, R502, R561). -/
def loadImage (r : Fin 16) (d : Desc) (i : Image) (seed : Digest) (s : State) : State :=
  let s := placeAll s
  let s := { s with cores := Sparse.mapVals (fun _ => CoreSt.empty) freshCore s.cores }
  let s := i.regions.foldl declare s
  let s := i.palettes.foldl (fun s p => s.modCore p.1 (fun k => { k with palettes := putPalette p.2.1 0 p.2.2 k.palettes })) s
  let s := extendMeas 3 (sha256 i.bytes) s
  let launch : Option Dword := if bit d.raw 336 then some (BitVec.ofNat 64 (bits d.raw 256 64)) else none
  let late := match launch with | some t => decide (t.toNat < s.now.toNat) | none => false
  let begun := match launch with | some t => decide (t.toNat ≤ s.now.toNat) | none => true
  let s := { s with
    program := some { id := BitVec.ofNat 12 (bits d.raw 320 12), image := i, seed := seed, launch := launch, begun := begun, loadedOn := r }
    last := none
    sparesOut := none
    fabric := { s.fabric with ports := Sparse.mapVals portReset jobPort s.fabric.ports }
    power := { s.power with lastGood := none } }
  if late then raise { code := 0x0021, unit := 0 } s else s

/-- Is a confirmation test under way (R361, R363). -/
def State.confirming (s : State) : Bool := s.confirm.any (fun x => x.2.isSome)

/-- LOAD_PROGRAM: the checks of R626 in their order; an image that passes them all is loaded. It waits for a confirmation test under way. -/
def execLoadProgram (r : Fin 16) (read : ImageRead) (s : State) : Host.Outcome State Fault Refusal :=
  atHead r 1 (fun d s =>
    if s.confirming then s
    else if s.program.isSome then completePlain r.val d 0x17 s
    else if d.bad then completeRaise r.val d 0x10 { code := 0x4003, unit := 0 } s
    else match read with
      | .error a => completeHost r.val d false a s
      | .timeout a => completeHost r.val d true a s
      | .ok i seed =>
        match imageRefusal i s with
        | some x => completeRaise r.val d x.1 { code := x.2, unit := 0 } s
        | none => completePlain r.val d 0 (loadImage r d i seed s)) s

/-! ### UNLOAD (R472) -/

/-- Unloads the program: token counters, regions, palettes, placement epochs and sessions are discarded, the stacks kept; M3 returns to zero (R472, R561). -/
def unloadProgram (s : State) : State :=
  { s with
    program := none
    last := none
    cores := Sparse.mapVals (fun _ => CoreSt.empty) freshCore s.cores
    eth := { s.eth with sessions := [] }
    host := { s.host with restore := none }
    sec := { s.sec with meas := Sparse.store (fun _ => 0) s.sec.meas 3 0 } }

/-- Is the program that a descriptor names loaded (R488). -/
def namedProgram (d : Desc) (s : State) : Option Program :=
  match s.program with
  | some p => if p.id.toNat = bits d.raw 64 16 then some p else none
  | none => none

/-- UNLOAD: waits for the running step, then unloads the program it names. -/
def execUnload (r : Fin 16) (s : State) : Host.Outcome State Fault Refusal :=
  if s.step.isSome then .next s
  else atHead r 2 (fun d s =>
    match namedProgram d s with
    | none => completePlain r.val d 0x17 s
    | some _ => completePlain r.val d 0 (unloadProgram s)) s

/-! ### RUN_STEP (R470, R477, R483) -/

/-- May a RUN_STEP carry this step number (R470). -/
def stepOrderOk (n : Word) (s : State) : Bool :=
  match s.last with
  | none => true
  | some l => n == l.number + 1 || (n == l.number && l.ended && !l.applied)

/-- The running step as it begins. -/
def newStep (r : Fin 16) (n : Word) (arg : Dword) (replay : Bool) (start : Dword) (hot : BitVec 16 × BitVec 16) (resp : Bool × Bool) : StepRun :=
  { ring := r, number := n, arg := arg, replay := replay, start := start, applied := false, normSent := false, invalid := false,
    globalNorm := none, skipped := false, noUpdates := false, abortReasons := [], causes := [], records := 0, valueVary := 0,
    timingVary := 0, faults := [], closed := [], launched := 0, limited := false, stackResp := resp.2, tileResp := resp.1, aborted := false,
    tileHot := hot.1, stackHot := hot.2 }

/-- Begins a training step: the run that R470 will judge the next by, no message of an earlier run of it accepted yet, and the update units' lists and flags empty. -/
def beginStep (r : Fin 16) (n : Word) (arg : Dword) (s : State) : State :=
  let replay := match s.last with | some l => l.number == n | none => false
  { s with
    step := some (newStep r n arg replay s.now (s.hottestTile, s.hottestStack) (s.tileHotNow, s.stackHotNow))
    last := some { number := n, applied := false, ended := false }
    host := { s.host with restore := none }
    fabric := { s.fabric with
      accepted := s.fabric.accepted.filter (fun k => k.2.2.2 != n)
      aborted := []
      peers := s.fabric.peers.map (fun p => { p with lost := false }) } }

/-- Marks the head descriptor of a ring as begun. -/
def markBegun (r : Nat) (s : State) : State :=
  let q := s.sq r
  match q.fetched with
  | d :: rest => s.setSq r { q with fetched := { d with begun := true } :: rest }
  | [] => s

/-- Is a RUN_STEP that was fetched earlier ready to begin on another ring (R483). -/
def earlierStep (d : Desc) (s : State) : Bool :=
  (List.range 16).any (fun r => match readyHead r 3 s with | some x => decide (x.order < d.order) | none => false)

/-- RUN_STEP: waits until no step and no confirmation test runs, its turn has come and the program has begun; then begins the step, or completes with the no-program, restore-incomplete or step-order status. -/
def execRunStep (r : Fin 16) (s : State) : Host.Outcome State Fault Refusal :=
  if s.step.isSome || s.confirming then .next s
  else atHead r 3 (fun d s =>
    if earlierStep d s then s
    else match namedProgram d s with
      | none => completePlain r.val d 0x17 s
      | some p =>
        let n := BitVec.ofNat 32 (bits d.raw 96 32)
        let partly := match s.host.restore with | some x => !x.complete | none => false
        if partly then completePlain r.val d 0x16 s
        else if !stepOrderOk n s then completePlain r.val d 0x15 s
        else if !p.begun then s
        else markBegun r.val (beginStep r n (BitVec.ofNat 64 (bits d.raw 128 64)) s)) s

/-! ### TRANSFER (R466, R467, R473) -/

/-- Is a range of stacked memory below the current capacity that a host descriptor may name, in whole words (R276, R466). -/
def hostRange (a : Dword) (n : Nat) (s : State) : Bool :=
  (match addrOf a with | .stack x => s.inCapacity x n | _ => false) && a.toNat % 4 == 0 && n % 4 == 0

/-- Writes bytes to the stacks for the host, outside any training step. -/
def hostStore (a : Dword) (bs : List Byte) (s : State) : State := aside (fun s => stackStore (.device 0 []) 4 a.toNat bs s) s

/-- The conditions and effects of a read of the stacks outside any training step. -/
def asideRead (tag : Tag) (t : Nat) (ranges : List (Nat × Nat)) (errs : ReadErrs) (s : State) : State :=
  aside (fun s => readEffects (.device tag []) t ranges errs.parity (injectStack t ranges (applyFlips errs.flips s))) s

/-- Reads bytes of the stacks for the host, with the effects of the read. -/
def hostLoad (a : Dword) (n : Nat) (errs : ReadErrs) (s : State) : List Byte × State :=
  let s := asideRead 0 4 [(a.toNat, n)] errs s
  (s.stackBytes 4 a.toNat n, s)

/-- TRANSFER: from the host into the scratch part, or from the stacks to the host. -/
def execTransfer (r : Fin 16) (x : HostMove) (s : State) : Host.Outcome State Fault Refusal :=
  let read := x.read
  let errs := x.errs
  atHead r 4 (fun d s =>
    let h := BitVec.ofNat 64 (bits d.raw 64 64)
    let a : Dword := BitVec.ofNat 64 (bits d.raw 128 64)
    let n := bits d.raw 192 32
    let out := bit d.raw 224
    if n = 0 then completePlain r.val d 0 s
    else if !hostRange a n s || h.toNat % 4 != 0 || (!out && !s.inScratch a.toNat n) then completeAddress r.val d a s
    else if out then
      let x := hostLoad a n errs s
      completePlain r.val d 0 (x.2.emit (.host h x.1))
    else match read with
      | .error e => completeHost r.val d false e s
      | .timeout e => completeHost r.val d true e s
      | .ok bs => if bs.length = n then completePlain r.val d 0 (hostStore a bs s) else s) s

/-! ### LAYOUT_COPY (R339, R466, R467, R474) -/

/-- Tag of a host's copy: program id 0x000, the core that runs it, command index 0 (R474; log 29). -/
def copyTag (c : CoreRef) : Tag := BitVec.ofNat 48 (c.tile.val * 2 ^ 34 + c.core.val * 2 ^ 27)

/-- Raises each refusal code of a host's copy once, and says which record was the first. -/
def refuseCopy (c : CoreRef) (codes : List (Code × Dword)) (s : State) : State :=
  aside (fun s => (codes.map (fun x => x.1)).eraseDups.foldl (fun s k =>
    let a := match codes.find? (fun x => x.1 == k) with | some x => x.2 | none => 0
    raise { code := k, unit := s.coreUnit c, tag := copyTag c, addr := a } s) (s.count Off.lxCount 1)) s

/-- Carries out a host's copy on the layout engine of a core; one record of each code (R322, R474). -/
def hostCopy (c : CoreRef) (k : CopyDesc) (errs : ReadErrs) (s : State) : State :=
  let t := c.tile.val
  let before := asideRead (copyTag c) t k.stackReads errs s
  let who := (Reporter.device (copyTag c) []).afterLost (k.stackReads.any (fun r => touchesLost t r.1 r.2 s))
  aside (fun s => copyRun who t k (fun i => devByte t (k.src + BitVec.ofNat 64 i) before) true s) before

/-- LAYOUT_COPY: the copy runs on the layout engine of a core that the device chooses; refused with 0x0011 for 0x2072 and 0x001B for any other code. -/
def execLayoutCopy (r : Fin 16) (x : CopyRun) (s : State) : Host.Outcome State Fault Refusal :=
  let c := x.core
  let errs := x.errs
  atHead r 5 (fun d s =>
    let k := copyDesc d.raw2
    let stacked (a : Dword) : Bool := match addrOf a with | .stack x => s.inCapacity x 1 | _ => false
    if k.zero then completePlain r.val d 0 (s.count Off.lxCount 0)
    else if !stacked k.src then completeAddress r.val d k.src s
    else if !stacked k.dst then completeAddress r.val d k.dst s
    else
      let codes := copyRefusals false none none k s
      let seq := s.mram.nextSeq
      match codes with
      | [] => completePlain r.val d 0 (hostCopy c k errs s)
      | _ =>
        match codes.find? (fun x => x.1 == 0x2072) with
        | some x =>
          let s := logErr 3 true 0x2072 x.2 (refuseCopy c codes s)
          completeWith r.val (descEntry r.val d 0x11 seq s) s
        | none =>
          let s := refuseCopy c codes s
          completeWith r.val (descEntry r.val d 0x1B seq s) s) s

end Sys2Proof.Machine
end

