-- ==== Sys2Proof/Machine/Repair.lean ====
section
/-! DEFINITION. The varnish pass (R304 to R306), retirement of stripes and map-out of channels (R307 to R310), live repair
(R311 to R315), and the retirement list with the capacity that it leaves (R316 to R320). -/

namespace Sys2Proof.Machine

/-! ### The map by physical stripe -/

/-- First reserve entry (R283). -/
def reserve0 : Nat := 571392

/-- Number of reserve entries. -/
def reserves : Nat := 18432

/-- The entry that holds a physical stripe when the map is that of R284. -/
def homeEntry (p : Phys) : Nat := if p.i < 1488 then 384 * p.i + p.q else reserve0 + 384 * (p.i - 1488) + p.q

/-- Is an entry's LOC a stripe in service (R304). -/
def MapEntry.inUse (e : MapEntry) : Bool := e.state == .mapped || e.state == .copying || e.state == .free

/-- The entry whose LOC is a physical stripe in service, if there is one. -/
def State.ownerOf (s : State) (p : Phys) : Option Nat :=
  match s.mem.map.find? (fun x => x.2.inUse && x.2.loc == p) with
  | some x => some x.1
  | none =>
    let n := homeEntry p
    let e := s.entry n
    if e.inUse && e.loc == p then some n else none

/-- Smallest of a list. -/
def least (l : List Nat) : Option Nat := l.foldl (fun m x => match m with | none => some x | some y => some (min x y)) none

/-- A number put at its place in an ascending list. -/
def insertAscending (n : Nat) : List Nat → List Nat
  | [] => [n]
  | x :: r => if n ≤ x then n :: x :: r else x :: insertAscending n r

/-- Logical stripes whose LOC lies on a channel, in the states wanted, in ascending order (R313, R316). -/
def State.logicalOn (s : State) (q : Nat) (want : StripeState → Bool) : List Nat :=
  let listed := (s.mem.map.filter (fun x => decide (x.1 < reserve0) && x.2.loc.q == q && want x.2.state)).map (fun x => x.1)
  let own := (List.range 1488).map (fun i => 384 * i + q)
  let plain := if want .mapped then own.filter (fun n => !s.mem.map.any (fun x => x.1 == n)) else []
  listed.foldr insertAscending plain

/-- Sets every FREE reserve entry on a channel to SPENT. -/
def spendChannel (q : Nat) (s : State) : State :=
  (List.range 48).foldl (fun s j =>
    let n := reserve0 + 384 * j + q
    let e := s.entry n
    if e.state == .free then s.setAllEntry n { e with state := .spent } else s) s

/-- The lowest-numbered FREE reserve entry that R307 gives: on a channel in service, not the one being emptied, not taken by a relocation under way. -/
def State.takeReserve (s : State) (emptied : Option Nat) : Option Nat :=
  (List.range reserves).find? (fun r =>
    let e := s.entry (reserve0 + r)
    e.state == .free && (s.chan e.loc.q).state == .inService && emptied != some e.loc.q &&
    !s.mem.relocs.any (fun x => x.reserve == reserve0 + r))

/-- Records of the MRAM area that holds the retirement list (R18). -/
def retirementRecords : Nat := 65536

/-- Adds an entry to the retirement list in the MRAM (R316). DESIGN CHOICE (log 137): an entry that finds the area's records used up is not kept. -/
def listRetired (x : Retired) (s : State) : State :=
  if s.mram.retirement.length < retirementRecords then { s with mram := { s.mram with retirement := s.mram.retirement ++ [x] } } else s

/-! ### Stripes left where they are (R319) -/

/-- No FREE reserve entry is left for a stripe: 0x1007 once, with the stripe; its channel takes the degraded state, recorded once as a record of the channel, with its stripes pending (R316, R319, R322). -/
def leavePending (p : Phys) (mapOut : Bool) (s : State) : State :=
  let c := s.chan p.q
  let s := s.setChan p.q { c with state := if c.state == .dead then .dead else .degraded, pending := true, fromMapOut := c.fromMapOut || mapOut }
  let s := if mapOut || s.mram.retirement.contains (.degraded p.q) then s else listRetired (.degraded p.q) s
  if s.mem.exhausted then s
  else raise { code := 0x1007, unit := 0, loc := some p } { s with mem := { s.mem with exhausted := true } }

/-- Ends a map-out: the channel is mapped out, with one 0x1006 for its 0x1004. -/
def endMapOut (q : Nat) (s : State) : State :=
  let open_ := s.mram.retirement.contains (.mapOut q false)
  let s := s.setChan q { s.chan q with state := .mappedOut, pending := false }
  let s := { s with
    mem := { s.mem with repairs := s.mem.repairs.erase (.mapOut q), mapOutDone := 0 }
    mram := { s.mram with retirement := s.mram.retirement.map (fun x => if x == .mapOut q false then .mapOut q true else x) } }
  if open_ then raise { code := 0x1006, unit := unitChan q } s else s

/-- Ends the map-out at the head of the repair queue once nothing of its channel is left to move. -/
def settleHead (s : State) : State :=
  match s.mem.repairs with
  | .mapOut q :: _ =>
    if (s.logicalOn q (fun x => x == .mapped || x == .copying)).isEmpty then endMapOut q s else s
  | _ => s

/-! ### The varnish pass (R304 to R308) -/

/-- Marks a physical stripe as having earned retirement. -/
def earnRetirement (p : Phys) (s : State) : State :=
  if p ∈ s.mem.toRetire then s else { s with mem := { s.mem with toRetire := s.mem.toRetire ++ [p] } }

/-- Sets the count of consecutive corrected passes of a word. -/
def setPasses (k n : Nat) (s : State) : State :=
  { s with mem := { s.mem with varnish := Sparse.store (fun _ => 0) s.mem.varnish k n } }

/-- Device address of a word of an entry's stripe; 0 for a reserve stripe, which has none. -/
def wordAddr (n : Nat) (w : Nat) : Dword := if n < reserve0 then BitVec.ofNat 64 (n * stripeBytes + 4 * w) else 0

/-- The pass reads one stored word of entry `n`: corrects, poisons, or leaves it. -/
def varnishWord (p : Phys) (n k : Nat) (s : State) : State :=
  match eccRead (s.stored k) with
  | .correct _ => setPasses k 0 s
  | .corrected w =>
    let passes := Sparse.look (fun _ => 0) s.mem.varnish k + 1
    let s := setPasses k passes (chanCE p.q ((s.storeCode k (codeword w)).count Off.memCount 1))
    if 3 ≤ passes then earnRetirement p s else s
  | .uncorrectable w syn =>
    let s := chanUE p syn (setPasses k 0 (s.count Off.memCount 2))
    if syn = 0x7F then s
    else raise { code := 0x1002, unit := unitChan p.q, addr := wordAddr n (k % 32768), loc := some p, syn := BitVec.ofNat 32 syn }
      (s.storeCode k (poisoned w))

/-- Words of a physical stripe that are stored or counted: every other word holds the codeword of zero. -/
def State.wordsOf (s : State) (p : Phys) : List Nat :=
  let lo := physWord p 0
  let inside (k : Nat) : Bool := decide (lo ≤ k) && decide (k < lo + 32768)
  let stored := (s.mem.stack.filter (fun x => inside x.1)).map (fun x => x.1)
  stored ++ (s.mem.varnish.filter (fun x => inside x.1 && !stored.contains x.1)).map (fun x => x.1)

/-- VARNISH_READ: the pass reads the stripe of index `i` of a channel, if it is in service; a stripe that the pass leaves out breaks the run of its corrections. -/
def execVarnishRead (q : Fin 384) (i : Nat) (errs : ReadErrs) (s : State) : Host.Outcome State Fault Refusal :=
  let p : Phys := ⟨q.val, i⟩
  let s := applyFlips errs.flips s
  let words := s.wordsOf p
  match s.ownerOf p with
  | some n =>
    if bit (s.act Off.varnishCtl) 0 && (s.chan q.val).state != .repairing && (s.chan q.val).state != .dead then
      .next (words.foldl (fun s k => varnishWord p n k s) s)
    else .next (words.foldl (fun s k => setPasses k 0 s) s)
  | none => .next (words.foldl (fun s k => setPasses k 0 s) s)

/-! ### Retirement and map-out (R308, R309) -/

/-- Is a copy under way. -/
def copying (s : State) : Bool := s.mem.relocs.any (fun x => x.stage == .copying)

/-- Changes the first relocation at a stage. -/
def stageFirst (from_ dest : RelocStage) : List Reloc → List Reloc
  | [] => []
  | x :: r => if x.stage == from_ then { x with stage := dest } :: r else x :: stageFirst from_ dest r

/-- Begins the copy of a relocation that is ready, when no other copy runs (R313). -/
def beginCopy (s : State) : State :=
  if copying s then s else { s with mem := { s.mem with relocs := stageFirst .ready .copying s.mem.relocs } }

/-- Is a physical stripe retired (R308). -/
def retiredStripe (p : Phys) (s : State) : Bool := s.mram.retirement.contains (.stripe p.q p.i)

/-- Ends a relocation under way whose destination is lost: the entry is MAPPED at its source again, and the relocation of a single stripe starts anew, before the tasks that were raised after it (R314). -/
def restartReloc (x : Reloc) (s : State) : State :=
  let s := { s with mem := { s.mem with relocs := s.mem.relocs.erase x } }
  let s := s.setAllEntry x.entry { state := .mapped, loc := x.src, loc2 := none }
  if x.mapOut then s else { s with mem := { s.mem with repairs := .stripe x.entry x.src :: s.mem.repairs } }

/-- A FREE reserve entry whose stripe is retired is SPENT; a relocation under way onto it starts again with another, as R314 has it for a destination that dies (log 138). -/
def spendRetired (n : Nat) (e : MapEntry) (s : State) : State :=
  let s := (s.mem.relocs.filter (fun x => x.reserve == n && x.stage != .draining)).foldl (fun s x => restartReloc x s) s
  s.setAllEntry n { e with state := .spent }

/-- STRIPE_RETIRE: a stripe that earned it is retired with 0x1003; a MAPPED one is queued for relocation, a FREE reserve one is spent, and one that no entry uses any more is only recorded. -/
def execStripeRetire (q : Fin 384) (i : Nat) (s : State) : Host.Outcome State Fault Refusal :=
  let p : Phys := ⟨q.val, i⟩
  if p ∈ s.mem.toRetire then
    let s := { s with mem := { s.mem with toRetire := s.mem.toRetire.erase p } }
    if retiredStripe p s then .next s
    else
      let c := s.chan q.val
      let s := (listRetired (.stripe q.val i) s).setChan q.val { c with retired := c.retired + 1 }
      let s := raise { code := 0x1003, unit := unitChan q.val, loc := some p } (s.count Off.memCount 3)
      match s.ownerOf p with
      | none => .next s
      | some n =>
        let e := s.entry n
        (match e.state with
         | .free => .next (beginCopy (spendRetired n e s))
         | .mapped =>
           if c.state == .inService || (c.state == .degraded && !c.fromMapOut) then .next { s with mem := { s.mem with repairs := s.mem.repairs ++ [.stripe n p] } } else .next s
         | _ => .next s)
  else .next s

/-- CE_WINDOW_END: each channel's correctable count of the window is kept in CE_LAST and starts again at zero (R309). -/
def execCeWindowEnd (s : State) : Host.Outcome State Fault Refusal :=
  .next { s with mem := { s.mem with
    channels := Sparse.mapVals chanReset (fun c => { c with ceLast := min 65535 c.ceNow, ceNow := 0 }) s.mem.channels } }

/-- Has a channel reached a limit of MEM_CE_LIMIT (R309). -/
def overLimit (c : Channel) (s : State) : Bool :=
  let v := s.act Off.ceLimit
  (bits v 0 16 != 0 && decide (bits v 0 16 ≤ c.ceNow)) || (bits v 16 8 != 0 && decide (bits v 16 8 ≤ c.retired))

/-- CHANNEL_MAP_OUT: 0x1004, the channel's FREE reserve entries are spent, and its stripes are to be relocated. -/
def execChannelMapOut (q : Fin 384) (s : State) : Host.Outcome State Fault Refusal :=
  let c := s.chan q.val
  if (c.state == .inService || (c.state == .degraded && !c.fromMapOut)) && overLimit c s then
    let s := raise { code := 0x1004, unit := unitChan q.val } (listRetired (.mapOut q.val false) s)
    let s := spendChannel q.val (s.setChan q.val { c with state := .repairing })
    .next { s with mem := { s.mem with repairs := s.mem.repairs ++ [.mapOut q.val] } }
  else .next s

/-! ### Live repair (R311 to R313) -/

/-- The next stripe to relocate: its entry, its stripe, and the channel being emptied; tasks with nothing left are dropped. `k` bounds how many. -/
def nextRepair : Nat → State → Option (Nat × Phys × Option Nat) × State
  | 0, s => (none, s)
  | k + 1, s =>
    match s.mem.repairs with
    | [] => (none, s)
    | .mapOut q :: _ =>
      match least (s.logicalOn q (fun x => x == .mapped)) with
      | some n => (some (n, (s.entry n).loc, some q), s)
      | none => (none, settleHead s)
    | .stripe n p :: r =>
      let s := { s with mem := { s.mem with repairs := r } }
      let e := s.entry n
      if e.state == .mapped && e.loc == p then (some (n, p, none), s) else nextRepair k s

/-- May the repair engine start a relocation: step 1 runs alone or while step 2 of the one before it runs (R313), and Dealmeg runs (R573). -/
def mayStart (s : State) : Bool :=
  decide (s.mem.relocs.length < 2) && s.mem.relocs.all (fun x => x.stage == .copying) && !s.mgmt.resetting && !s.mgmt.halted

/-- RELOCATION_START: the next stripe takes a reserve entry and is set to COPYING in the master and in every replica; without a reserve entry it stays where it is (R307, R311, R319). -/
def execRelocationStart (s : State) : Host.Outcome State Fault Refusal :=
  if mayStart s then
    match nextRepair (s.mem.repairs.length + 1) s with
    | (none, s) => .next s
    | (some (n, p, em), s) =>
      match s.takeReserve em with
      | some r =>
        let dst := (s.entry (reserve0 + r)).loc
        let s := s.setAllEntry n { state := .copying, loc := p, loc2 := some dst }
        .next { s with mem := { s.mem with relocs := s.mem.relocs ++
          [{ entry := n, src := p, dst := dst, reserve := reserve0 + r, stage := .waitAck, mapOut := em.isSome }] } }
      | none =>
        let s := leavePending p em.isSome s
        match em with
        | some q => .next { s with mem := { s.mem with repairs := s.mem.repairs.erase (.mapOut q), mapOutDone := 0 } }
        | none => .next s
  else .next s

/-- REPLICAS_ACKNOWLEDGED: every replica has the COPYING entry, and the copy begins as soon as no other runs. -/
def execReplicasAcknowledged (s : State) : Host.Outcome State Fault Refusal :=
  .next (beginCopy { s with mem := { s.mem with relocs := stageFirst .waitAck .ready s.mem.relocs } })

/-- How the copy writes a word that it reads: as it is, corrected, or as poison (R308). -/
def copiedCode (c : Codeword) : Codeword :=
  match eccRead c with
  | .correct _ => c
  | .corrected w => codeword w
  | .uncorrectable w _ => poisoned w

/-- Copies a physical stripe, and counts the uncorrectable words met; one that is not stored poison earns the source its retirement (R308, R311, R321). -/
def copyStripe (src dst : Phys) (s : State) : State :=
  let from_ := physWord src 0
  let dest := physWord dst 0
  let s := (s.mem.stack.filter (fun x => decide (dest ≤ x.1) && decide (x.1 < dest + 32768))).foldl (fun s x => s.storeCode x.1 0) s
  (s.mem.stack.filter (fun x => decide (from_ ≤ x.1) && decide (x.1 < from_ + 32768))).foldl (fun s x =>
    let s := match eccRead x.2 with
      | .uncorrectable _ syn => chanUE src syn (s.count Off.memCount 2)
      | _ => s
    s.storeCode (dest + (x.1 - from_)) (copiedCode x.2)) s

/-- Switches an entry to its new stripe and spends the reserve entry (R307, R311). -/
def switchEntry (n : Nat) (dst : Phys) (reserve : Nat) (s : State) : State :=
  let e := s.entry reserve
  ((s.setAllEntry n { state := .mapped, loc := dst, loc2 := none }).setAllEntry reserve { e with state := .spent }).count Off.memCount 4

/-- STRIPE_COPY_DONE: the copy ends and the entry is switched to its new stripe; 0x1006 follows the last stripe of a map-out. -/
def execStripeCopyDone (s : State) : Host.Outcome State Fault Refusal :=
  match s.mem.relocs.find? (fun x => x.stage == .copying) with
  | none => .next s
  | some x =>
    let s := switchEntry x.entry x.dst x.reserve (copyStripe x.src x.dst s)
    let s := { s with mem := { s.mem with
      relocs := stageFirst .copying .draining s.mem.relocs
      mapOutDone := if x.mapOut then s.mem.mapOutDone + 1 else s.mem.mapOutDone } }
    .next (settleHead (beginCopy s))

/-- OLD_STRIPE_RELEASE: the pieces translated to the old stripe have completed, and it is released. -/
def execOldStripeRelease (s : State) : Host.Outcome State Fault Refusal :=
  match s.mem.relocs.find? (fun x => x.stage == .draining) with
  | none => .next s
  | some x => .next { s with mem := { s.mem with relocs := s.mem.relocs.erase x } }

/-! ### Dead channels (R310, R314) -/

/-- What a dying channel does to one relocation under way. -/
def dropReloc (q : Nat) (s : State) (x : Reloc) : State :=
  if x.stage == .draining then s
  else if x.src.q = q then
    { s with mem := { s.mem with relocs := s.mem.relocs.erase x } }.setAllEntry x.entry { state := .lost, loc := x.src, loc2 := none }
  else if x.dst.q = q then restartReloc x s
  else s

/-- Does a repair task belong to a channel. -/
def repairOn (q : Nat) : Repair → Bool
  | .mapOut c => c == q
  | .stripe _ p => p.q == q

/-- CHANNEL_DEAD: 0x1005; the channel's MAPPED and COPYING entries become LOST and its FREE reserve entries SPENT. -/
def execChannelDead (q : Fin 384) (s : State) : Host.Outcome State Fault Refusal :=
  let c := s.chan q.val
  if c.state == .dead then .next s
  else
    let s := raise { code := 0x1005, unit := unitChan q.val } (listRetired (.dead q.val) s)
    let s := s.mem.relocs.reverse.foldl (dropReloc q.val) s
    let s := spendChannel q.val s
    let s := (s.logicalOn q.val (fun x => x == .mapped || x == .copying)).foldl (fun s n =>
      s.setAllEntry n { state := .lost, loc := (s.entry n).loc, loc2 := none }) s
    let lost := !(s.logicalOn q.val (fun x => x == .lost)).isEmpty
    let s := s.setChan q.val { s.chan q.val with state := .dead, pending := lost, fromMapOut := false }
    let ended := match s.mem.repairs with | t :: _ => repairOn q.val t | [] => false
    .next (beginCopy { s with mem := { s.mem with
      repairs := s.mem.repairs.filter (fun t => !repairOn q.val t), mapOutDone := if ended then 0 else s.mem.mapOutDone } })

/-! ### At a sanitize operation (R315, R320) -/

/-- Moves a stripe to a reserve entry without a copy, or leaves it pending. -/
def moveBare (n : Nat) (em : Option Nat) (s : State) : State :=
  match s.takeReserve em with
  | some r => switchEntry n (s.entry (reserve0 + r)).loc (reserve0 + r) s
  | none => leavePending (s.entry n).loc em.isSome s

/-- Carries out a whole repair task without copying. -/
def finishTask (s : State) (t : Repair) : State :=
  match t with
  | .mapOut q =>
    let s := (s.logicalOn q (fun x => x == .mapped)).foldl (fun s n => moveBare n (some q) s) s
    if (s.logicalOn q (fun x => x == .mapped)).isEmpty then endMapOut q s else s
  | .stripe n p => let e := s.entry n; if e.state == .mapped && e.loc == p then moveBare n none s else s

/-- Settles live repair: COPYING stripes are switched and waiting ones moved, without copies (R315). -/
def settleRepair (s : State) : State :=
  let s := s.mem.relocs.foldl (fun s x => if x.stage == .draining then s else switchEntry x.entry x.dst x.reserve s) s
  let tasks := s.mem.repairs
  let s := tasks.foldl finishTask { s with mem := { s.mem with relocs := [] } }
  { s with mem := { s.mem with repairs := [] } }

/-- Is a logical stripe LOST or pending (R319, R320). -/
def needsRemap (e : MapEntry) (s : State) : Bool :=
  e.state == .lost ||
  (e.state == .mapped && (s.chan e.loc.q).pending && ((s.chan e.loc.q).fromMapOut || (s.chan e.loc.q).whole || retiredStripe e.loc s))

/-- Channels with stripes awaiting a remap. -/
def State.pendingChannels (s : State) : List Nat := (List.range 384).filter (fun q => (s.chan q).pending)

/-- Logical stripes that R320 remaps, ascending. -/
def State.toRemap (s : State) : List Nat :=
  let l := s.pendingChannels.flatMap (fun q => (s.logicalOn q (fun x => x == .mapped || x == .lost)).filter (fun n => needsRemap (s.entry n) s))
  l.foldr insertAscending []

/-- Withdraws logical stripes from `n` − 1 downward until `have_` places cover `need` stripes: the lowest withdrawn and the physical stripes freed. -/
def withdraw (s : State) : Nat → Nat → Nat → List Phys → Nat × List Phys
  | 0, _, _, freed => (0, freed)
  | n + 1, need, have_, freed =>
    if need ≤ have_ + freed.length then (n + 1, freed)
    else
      let e := s.entry n
      if needsRemap e s then withdraw s n (need - 1) have_ freed
      else withdraw s n need have_ (freed ++ [e.loc])

/-- Sets stripes `lo` to `hi` − 1 to WITHDRAWN and records them (R316, R320). -/
def withdrawAll (lo hi : Nat) (s : State) : State :=
  (List.range (hi - lo)).foldl (fun s k =>
    let n := hi - 1 - k
    (listRetired (.withdrawn n) s).setAllEntry n { s.entry n with state := .withdrawn, loc2 := none }) s

/-- The state of a channel once nothing of it is pending (R320). -/
def settleChannel (s : State) (q : Nat) : State :=
  let c := s.chan q
  match c.state with
  | .degraded => if c.fromMapOut then endMapOut q s else s.setChan q { c with state := .inService, pending := false, whole := false }
  | _ => s.setChan q { c with pending := false }

/-- Remaps every LOST and pending stripe, withdrawing logical stripes from the top where the reserve does not suffice (R320). -/
def remap (s : State) : State :=
  let l := s.toRemap
  let free := (List.range reserves).filter (fun r => (s.entry (reserve0 + r)).state == .free)
  let w := if l.length ≤ free.length then (s.mem.usable, []) else withdraw s s.mem.usable l.length free.length []
  let need := l.filter (fun n => decide (n < w.1))
  let places : List (Phys × Option Nat) := (free.map (fun r => ((s.entry (reserve0 + r)).loc, some (reserve0 + r)))) ++ w.2.map (fun p => (p, none))
  let s := withdrawAll w.1 s.mem.usable s
  let s := (need.zip places).foldl (fun s x =>
    match x.2.2 with
    | some r => switchEntry x.1 x.2.1 r s
    | none => (s.setAllEntry x.1 { state := .mapped, loc := x.2.1, loc2 := none }).count Off.memCount 4) s
  let s := { s with mem := { s.mem with usable := w.1, exhausted := false } }
  s.pendingChannels.foldl settleChannel s

/-! ### At a device reset (R316) -/

/-- Applies one entry of the retirement list to the map, without copying. -/
def applyRetired (s : State) (x : Retired) : State :=
  let channel (q : Nat) (st : ChanState) (s : State) : State :=
    let s := spendChannel q (s.setChan q { s.chan q with state := st })
    (s.logicalOn q (fun y => y == .mapped)).foldl (fun s n =>
      match s.takeReserve (some q) with
      | some r => switchEntry n (s.entry (reserve0 + r)).loc (reserve0 + r) s
      | none =>
        let s := s.setChan q { s.chan q with pending := true, fromMapOut := st == .mappedOut, whole := st == .degraded }
        if st == .dead then s.setAllEntry n { s.entry n with state := .lost } else s) s
  match x with
  | .stripe q i =>
    (match s.ownerOf ⟨q, i⟩ with
     | some n =>
       let e := s.entry n
       let s := s.setChan q { s.chan q with retired := (s.chan q).retired + 1 }
       if e.state == .free then s.setAllEntry n { e with state := .spent }
       else match s.takeReserve none with
         | some r => switchEntry n (s.entry (reserve0 + r)).loc (reserve0 + r) s
         | none => s.setChan q { s.chan q with state := .degraded, pending := true }
     | none => s)
  | .mapOut q _ =>
    let s := channel q .mappedOut s
    if (s.chan q).pending then s.setChan q { s.chan q with state := .degraded } else s
  | .dead q => channel q .dead s
  | .degraded q => let s := channel q .degraded s; s.setChan q { s.chan q with pending := true }
  | .withdrawn n =>
    let e := s.entry n
    let freed : Option Phys := if e.state == .mapped && !needsRemap e s then some e.loc else none
    let s := s.setAllEntry n { e with state := .withdrawn, loc2 := none }
    let s := { s with mem := { s.mem with usable := min s.mem.usable n } }
    match freed, s.toRemap with
    | some p, m :: _ => s.setAllEntry m { state := .mapped, loc := p, loc2 := none }
    | _, _ => s

/-- Rebuilds the map from the retirement list; 0x1006 for each map-out that this completes (R316). The moves are no relocations of MEM_COUNT. -/
def rebuildMap (s : State) : State :=
  let s := s.mram.retirement.foldl applyRetired { s with mem := Mem.reset }
  let s := s.setReg (Off.memCount + 32) 0
  let open_ := s.mram.retirement.filterMap (fun x => match x with
    | .mapOut q false => if (s.chan q).state == .mappedOut then some q else none
    | _ => none)
  let s := open_.foldl (fun s q => endMapOut q s) s
  s.pendingChannels.foldl (fun s q =>
    if (s.logicalOn q (fun y => y == .mapped || y == .lost)).any (fun n => needsRemap (s.entry n) s) then s else settleChannel s q) s

end Sys2Proof.Machine
end

