-- ==== Sys2Proof/Machine/Sanitize.lean ====
section
/-! DEFINITION. The sanitize operation (R484, R492 to R494, R586), Function Level Reset and D3hot (R445). -/

namespace Sys2Proof.Machine

/-! ### Step 1 (R484, R492, R586) -/

/-- Completes what waits on one ring with the cancelled status; a step that has begun stays until it ends. -/
def cancelRing (s : State) (r : Nat) : State :=
  let l := (s.sq r).fetched
  let s := (l.filter (fun d => !d.begun)).foldl (fun s d =>
    (cqPost (s.cqOf r) (descEntry r d 0x1A noSeq s) s).count Off.hifCount 0) s
  s.setSq r { s.sq r with fetched := l.filter (fun d => d.begun) }

/-- Completes every waiting descriptor of the other rings, and the pooled message buffers, with the cancelled status (R484). -/
def cancelWaiting (skip : Option (Fin 16)) (s : State) : State :=
  let s := ((List.finRange 16).filter (fun r => skip != some r)).foldl (fun s r => cancelRing s r.val) s
  s.host.pool.foldl (fun s x => (cqPost (s.cqOf x.1.val) (descEntry x.1.val x.2 0x1A noSeq s) s).count Off.hifCount 0)
    { s with host := { s.host with pool := [] } }

/-- Disarms an armed turn (R586). -/
def cancelTurn (s : State) : State :=
  if s.frozen then { (s.setField Off.turnCtl 0 1 0) with mgmt := { s.mgmt with cancelled := true } } else s

/-- Steps 2 and 3 of R492: the program is unloaded and live repair settled. -/
def clearWork (s : State) : State := settleRepair (unloadProgram s)

/-- Begins a sanitize operation: the rings are fenced, collectives aborted with reason 3, and steps 2 and 3 follow once no step runs. -/
def beginSanitize (by_ : SanitizeBy) (skip : Option (Fin 16)) (s : State) : State :=
  let s := abortAll 3 (s.fabric.colls.map (fun c => c.spec.num)) s
  let s := s.modStep (fun r =>
    { r with abortReasons := r.abortReasons ++ [3], causes := r.causes ++ [(7, noSeq)], noUpdates := r.noUpdates || r.globalNorm.isNone })
  let s := cancelTurn (cancelWaiting skip s)
  let s := { s with host := { s.host with sanitizing := some by_ } }
  if s.step.isSome then s else clearWork s

/-- SANITIZE: fences every ring and begins the sanitize operation. -/
def execSanitize (r : Fin 16) (s : State) : Host.Outcome State Fault Refusal :=
  atHead r 8 (fun _ s => beginSanitize (.ring r) (some r) (markBegun r.val s)) s

/-! ### Steps 4 to 6 (R290, R291, R492, R594, R620) -/

/-- The counters that return to zero at a sanitize operation, with their number (R146, R190, R227, R271, R347). -/
def jobCounters : List (Nat × Nat) := [(Off.qzCount, 7), (Off.mxCount, 6), (Off.vxCount, 5), (Off.lxCount, 4), (Off.uuCount, 6)]

/-- The status words that the departing job's commands left. -/
def jobStatus : List (Nat × Nat) := [(Off.mxStatus 0, 256), (Off.vxStatus 0, 256), (Off.qzStatus 0 0, 512), (Off.uuStatus 0, 4), (Off.detStatus, 1)]

/-- Does a slot belong to one of the arrays. -/
def inArrays (l : List (Nat × Nat)) (o : Nat) : Bool := l.any (fun a => decide (a.1 ≤ o) && decide (o < a.1 + 8 * a.2))

/-- The gesso fill and the reset of job state (steps 4 and 5 of R492). DESIGN CHOICE (log 152): the trace sub-buffers begin anew at their first slot. -/
def gessoFill (s : State) : State :=
  { s with
    regs := s.regs.filter (fun x => !inArrays (jobCounters ++ jobStatus) x.1)
    cores := []
    units := Sparse.mapVals (fun _ => UnitSt.empty) (fun u => { UnitSt.empty with inService := u.inService }) s.units
    mem := { s.mem with stack := [], varnish := [], lines := [], fetching := [] }
    goodStep := none
    intact := true
    fabric := { s.fabric with
      rankActive := [], rankShadow := [], colls := [], out := [], accepted := [], inbox := [], peers := [], early := [],
      dropEpoch := none, aborted := [] }
    eth := { s.eth with sessions := [] }
    power := { s.power with ledger := [], ledgerNext := 0, ledgerWrapped := false, lastGood := none }
    host := { s.host with restore := none, pool := [] } }

/-- Does the last-level region that the registers in force name satisfy R290 and R291. -/
def llrOk (s : State) : Bool :=
  let sz := s.inJob Off.llrSize
  let scratch := bits sz 0 24
  let cache := bits sz 24 24
  decide (0 < scratch + cache) && decide (bits (s.inJob Off.llrBase) 0 24 + scratch + cache ≤ s.mem.usable) && decide (cache ≤ 131072)

/-- Checks the last-level region: a bad one stays disabled for the next job, with 0x100D (R291). -/
def checkLlr (s : State) : State :=
  let en := bit (s.inJob Off.llrCtl) 0
  let ok := llrOk s
  let s := { s with mem := { s.mem with llrOn := en && ok } }
  if en && !ok then raise { code := 0x100D, unit := 0 } s else s

/-- Checks the trace configuration in force: tracing is on only with one that passes (R620). -/
def checkTrace (s : State) : State :=
  let off := { s with mgmt := { s.mgmt with traceOn := false } }
  let n := bits (s.act Off.traceSize) 0 16
  if !bit (s.act Off.traceCtl) 0 then off
  else if n = 0 then raise { code := 0x2018, unit := 0 } off
  else if !s.inScratch (s.act Off.traceBase).toNat (260 * n * stripeBytes) then raise { code := 0x100D, unit := 0 } off
  else { s with mgmt := { s.mgmt with traceOn := true } }

/-- Applies the "at next job" values; an Ethernet port that they do not enable goes down. -/
def applyNextJob (s : State) : State :=
  let s := { s with job := jobFrom s.regs s.job }
  let keep (e : Nat) (up : Sparse Bool) : Sparse Bool := if bit (s.inJob (Off.ethCtl e)) 0 then up else Sparse.store (fun _ => false) up e false
  { s with eth := { s.eth with up := keep 0 (keep 1 s.eth.up) } }

/-- Step 6 of R492. -/
def finishJob (s : State) : State := checkTrace (remap (checkLlr (applyNextJob s)))

/-- Is a slot one of the HIF_ registers, the MSI-X table or the pending-bit array. -/
def isHif (o : Nat) : Bool := decide (0x100000 ≤ o) && decide (o < 0x110000)

/-- What a Function Level Reset returns to reset: the HIF_ registers, the rings and the MSI-X state (R445). -/
def resetHif (s : State) : State :=
  { s with
    regs := s.regs.filter (fun x => !isHif x.1)
    host := { s.host with sqs := [], cqs := [], vectors := [] } }

/-- The end of the operation, by who asked for it. -/
def endSanitize (by_ : SanitizeBy) (s : State) : State :=
  let s := { s with host := { s.host with sanitizing := none } }
  match by_ with
  | .ring r =>
    (match (s.sq r.val).fetched with
     | d :: _ => if d.op = 8 then completePlain r.val d 0 s else s
     | [] => s)
  | .flr => resetHif s
  | .d3hot => s

/-- Does any stack accept no foreground traffic, so that the fill pauses (R543). -/
def stackStopped (s : State) : Bool := (List.range 24).any (fun k => (s.stackT k).state == 2)

/-- GESSO_FILL_DONE: the fill ends, job state is reset, next-job values apply, and the operation completes. -/
def execGessoFillDone (s : State) : Host.Outcome State Fault Refusal :=
  match s.host.sanitizing with
  | some b => if s.step.isSome || stackStopped s then .next s else .next (endSanitize b (finishJob (gessoFill s)))
  | none => .next s

/-! ### Function Level Reset and D3hot (R445) -/

/-- Is the PCIe function alive. -/
def functionUp (s : State) : Bool := s.reachable

/-- FUNCTION_LEVEL_RESET: performs a sanitize operation, at whose end the HIF_ registers, rings and MSI-X state are at reset. -/
def execFunctionLevelReset (s : State) : Host.Outcome State Fault Refusal :=
  if functionUp s then
    match s.host.sanitizing with
    | some _ => .next { s with host := { s.host with sanitizing := some .flr } }
    | none => .next (beginSanitize .flr none s)
  else .next s

/-- D3HOT_ENTRY: BAR accesses receive Unsupported Request from now on, and a sanitize operation is performed. -/
def execD3hotEntry (s : State) : Host.Outcome State Fault Refusal :=
  if functionUp s && !s.host.d3hot then
    let s := { s with host := { s.host with d3hot := true } }
    if s.host.sanitizing.isSome then .next s else .next (beginSanitize .d3hot none s)
  else .next s

/-- D3HOT_EXIT: the function is back in D0. -/
def execD3hotExit (s : State) : Host.Outcome State Fault Refusal := .next { s with host := { s.host with d3hot := false } }

end Sys2Proof.Machine
end

