-- ==== Sys2Proof/Machine/Turn.lean ====
section
/-! DEFINITION. The active and shadow sets and the turn (R582 to R586, R73, R620). -/

namespace Sys2Proof.Machine

/-! ### Writes of the shadow set -/

/-- The value of a slot after a write of one half or of the whole slot (R589, R590). -/
def mergeWrite (old : Dword) (o width : Nat) (v : Dword) : Dword :=
  if width = 8 then v else if o % 8 = 0 then putBits old 0 32 v.toNat else putBits old 32 32 v.toNat

/-- A write of a slot that holds a value: fields outside the mask keep zero. -/
def storeValue (o width : Nat) (v : Dword) (s : State) : State :=
  let k := slotOf o
  s.setReg k (mergeWrite (s.reg k) o width v &&& BitVec.ofNat 64 (writeMask k))

/-! ### The turn (R583) -/

/-- Has a turn changed a field of the trace configuration. -/
def traceChanged (from_ dest : State) : Bool :=
  from_.act Off.traceCtl != dest.act Off.traceCtl || from_.act Off.traceBase != dest.act Off.traceBase ||
  from_.act Off.traceSize != dest.act Off.traceSize

/-- Does a turn make every sub-buffer begin again: it changes BASE, SIZE, EN or WRAP (R73). -/
def traceRestarts (from_ dest : State) : Bool :=
  bit (from_.act Off.traceCtl) 0 != bit (dest.act Off.traceCtl) 0 || bit (from_.act Off.traceCtl) 4 != bit (dest.act Off.traceCtl) 4 ||
  from_.act Off.traceBase != dest.act Off.traceBase || from_.act Off.traceSize != dest.act Off.traceSize

/-- Sends sub-buffers back to their first record slot: all of them, or those that have stopped (R73). -/
def restartTraces (all : Bool) (s : State) : State :=
  { s with
    cores := Sparse.mapVals (fun _ => CoreSt.empty) (fun k => if all || k.traceFull then { k with tracePos := 0, traceFull := false } else k) s.cores
    units := Sparse.mapVals (fun _ => UnitSt.empty) (fun u => if all || u.traceFull then { u with tracePos := 0, traceFull := false } else u) s.units }

/-- A turn: every SH register and the rank table take their shadow, ARM clears, and the refill of the shadow set begins. -/
def doTurn (s : State) : State :=
  let old := s
  let s := { s.setField Off.turnCtl 0 1 0 with
    active := activeFrom s.regs s.active
    fabric := { s.fabric with rankActive := s.fabric.rankShadow }
    mgmt := { s.mgmt with turns := BitVec.ofNat 32 (min (s.mgmt.turns.toNat + 1) (2 ^ 32 - 1)), refilling := true } }
  let s := if bit (s.act Off.varnishCtl) 0 && !bit (old.act Off.varnishCtl) 0 then { s with mem := { s.mem with varnish := [] } } else s
  let s := if traceChanged old s then checkTrace s else s
  if traceRestarts old s then restartTraces true s
  else if s.mgmt.traceOn then restartTraces false s else s

/-! ### Arming (R584, R585) -/

/-- MODE of the armed turn; 3 acts as 1. -/
def State.turnMode (s : State) : Nat := let m := bits (s.reg Off.turnCtl) 1 2; if m = 3 then 1 else m

/-- Is a mode-1 turn armed. -/
def State.boundaryTurn (s : State) : Bool := s.frozen && s.turnMode == 1

/-- A write of MGT_TURN_CTL: ARM = 0 disarms; ARM = 1 arms, and the turn takes place at once in mode 0, in mode 1 with no step running, and in mode 2 when its time has come, late when it has passed. -/
def writeTurnCtl (v : Dword) (s : State) : State :=
  let s := s.setReg Off.turnCtl (v &&& BitVec.ofNat 64 (writeMask Off.turnCtl))
  if !bit v 0 then s
  else if s.turnMode = 0 then doTurn s
  else if s.turnMode = 1 then (if s.step.isSome then s else doTurn s)
  else if s.now < s.reg Off.turnTime then s
  else if s.now = s.reg Off.turnTime then doTurn s
  else doTurn (raise { code := 0x0021, unit := 0 } { s with mgmt := { s.mgmt with late := true } })

/-- TURN_ARM: a write of MGT_TURN_CTL with ARM = 1. -/
def execTurnArm (v : Dword) (s : State) : Host.Outcome State Fault Refusal :=
  hostWrite (slotWrite Off.turnCtl (v ||| 1)) (writeTurnCtl (v ||| 1)) s

/-- TURN_DISARM: a write of MGT_TURN_CTL with ARM = 0. -/
def execTurnDisarm (v : Dword) (s : State) : Host.Outcome State Fault Refusal :=
  hostWrite (slotWrite Off.turnCtl (v &&& ~~~1#64)) (writeTurnCtl (v &&& ~~~1#64)) s

/-- TURN_TIME_REACHED: the counter is at or after MGT_TURN_TIME, and an armed mode-2 turn takes place. -/
def execTurnTimeReached (s : State) : Host.Outcome State Fault Refusal :=
  if s.frozen && s.turnMode == 2 && decide ((s.reg Off.turnTime).toNat ≤ s.now.toNat) then .next (doTurn s) else .next s

/-- SHADOW_REFILL_DONE: the shadow set holds the active values, and the writes held meanwhile are applied in order (R583). -/
def execShadowRefillDone (s : State) : Host.Outcome State Fault Refusal :=
  if s.mgmt.refilling then
    let held := s.mgmt.heldWrites
    let s := { s with mgmt := { s.mgmt with refilling := false, heldWrites := [] } }
    .next (held.foldl (fun s w => storeValue w.1 w.2.1 w.2.2 s) s)
  else .next s

end Sys2Proof.Machine
end

