-- ==== Sys2Proof/Machine/Boot.lean ====
section
/-! DEFINITION. Start-up, reset and power-down (R526 to R529, R545, R554 to R561, R600 to R609). -/

namespace Sys2Proof.Machine

/-! ### What survives (R529, R555, R556) -/

/-- The machine in its reset state with the MRAM, boot flash and fuses kept, at a row of R554; pins and the queue of commands belong to no reset. -/
def cold (b : Boot) (s : State) : State :=
  { State.reset with
    pending := s.pending
    free := s.free
    out := s.out
    mram := s.mram
    rom := s.rom
    mgmt := { Mgmt.reset with boot := b }
    pins := { s.pins with powerGood := false, ptr := 0, page := [] } }

/-- Does firmware run that can save to the MRAM (R529, R554). -/
def firmwareUp (s : State) : Bool := s.mgmt.boot == .firmware || s.mgmt.boot == .ready

/-- Writes every queued record to the MRAM. -/
def saveRecords (s : State) : State := drainAll (s.mgmt.queue.length + 4) s

/-- Step 2 of R529 apart from the cause: queued records, PWR_ENERGY and the calibration settings (R578) go to the MRAM. -/
def powerSave (s : State) : State := if firmwareUp s then saveCalibration (saveRecords s) else s

/-- An orderly power-down: the cause's record and byte 1 of the status page go to the MRAM with the rest, and nothing else survives (R529, R610). -/
def powerDown (cause : Byte) (c : Option Cause) (s : State) : State :=
  let s := powerSave s
  let s := match c with | some c => raise c s | none => s
  let s := if firmwareUp s then let t := saveRecords s; { t with mram := { t.mram with cause := cause } } else s
  cold .off s

/-- A device reset: step 2 of R529, then R554 from the 10.5 ms row (R555, R556). -/
def deviceReset (s : State) : State := cold .atReset (powerSave s)

/-- Is the module powered, in any row of R554. -/
def State.isOn (s : State) : Bool := s.mgmt.boot != .off

/-- Power-up begins where ENABLE is asserted, the input is in range and charged, and no latch holds (R528, R554, R606). -/
def tryPower (s : State) : State :=
  let p := s.pins
  if p.enable && p.input && p.charged && p.inRange && !p.latch && !s.isOn then { s with mgmt := { s.mgmt with boot := .ramping } } else s

/-! ### ENABLE and the input (R528, R602, R606, R608) -/

/-- ENABLE_ASSERT: the latches of R528 and R545 clear, and power-up begins. -/
def execEnableAssert (s : State) : Host.Outcome State Fault Refusal :=
  if s.pins.enable then .next s
  else .next (tryPower { s with pins := { s.pins with enable := true, latch := false, tripped := false } })

/-- ENABLE_DEASSERT: an orderly power-down with no fault record. -/
def execEnableDeassert (s : State) : Host.Outcome State Fault Refusal :=
  let s := { s with pins := { s.pins with enable := false } }
  if s.isOn then .next (powerDown 5 none s) else .next s

/-- Unit of the input stage (R527). -/
def unitInput : UnitId := unitPower 0

/-- INPUT_UNDERVOLTAGE: below 46.0 V for 20 µs; power-down with 0x5001, and an automatic restart later. -/
def execInputUndervoltage (s : State) : Host.Outcome State Fault Refusal :=
  if s.pins.input then
    let s := { s with pins := { s.pins with inRange := false } }
    if s.isOn then .next (powerDown 1 (some { code := 0x5001, unit := unitInput }) s) else .next s
  else .next s

/-- INPUT_RECOVERED: above 47.5 V for 100 ms; power-up restarts with ENABLE asserted. -/
def execInputRecovered (s : State) : Host.Outcome State Fault Refusal :=
  if s.pins.input then .next (tryPower { s with pins := { s.pins with inRange := true } }) else .next s

/-- A latched power-down. -/
def latchedDown (cause : Byte) (c : Cause) (s : State) : State := powerDown cause (some c) { s with pins := { s.pins with latch := true } }

/-- INPUT_OVERVOLTAGE: above 62.0 V for 10 µs; a latched power-down with 0x5002. -/
def execInputOvervoltage (s : State) : Host.Outcome State Fault Refusal :=
  if s.isOn then .next (latchedDown 2 { code := 0x5002, unit := unitInput } s) else .next s

/-- RAIL_OUT_OF_REGULATION: a rail of R527 outside ±5 % for 50 µs; a latched power-down with 0x5003 and the rail's unit id. -/
def execRailOutOfRegulation (rail : BitVec 10) (s : State) : Host.Outcome State Fault Refusal :=
  if s.isOn && decide (1 ≤ rail.toNat) && decide (rail.toNat ≤ 11) then
    .next (latchedDown 3 { code := 0x5003, unit := unitPower rail.toNat } s)
  else .next s

/-- Unit id of a sensor of R541. -/
def unitSensor : Sensor → UnitId
  | .tile t => unitPower (0x10 + t.val)
  | .stack k => unitPower (0x20 + k.val)

/-- THERMAL_TRIP: THERMTRIP_N falls and stays low, and a latched power-down follows with 0x5013 (R545, R608). -/
def execThermalTrip (x : Sensor) (s : State) : Host.Outcome State Fault Refusal :=
  if s.isOn then
    .next (latchedDown 4 { code := 0x5013, unit := unitSensor x } { s with pins := { s.pins with tripped := true } })
  else .next s

/-- HOLD_UP_CHARGED: the hold-up capacitance is charged after insertion, and an ENABLE asserted before takes effect (R606). -/
def execHoldUpCharged (s : State) : Host.Outcome State Fault Refusal :=
  .next (tryPower { s with pins := { s.pins with input := true, inRange := true, charged := true } })

/-- INPUT_REMOVED: the input is gone and every latch clears; a module still on passes 46.0 V on the way and powers down (R528, R602). -/
def execInputRemoved (s : State) : Host.Outcome State Fault Refusal :=
  let s := if s.isOn then powerDown 1 (some { code := 0x5001, unit := unitInput }) s else s
  .next { s with pins := { s.pins with input := false, inRange := false, charged := false, latch := false, tripped := false } }

/-! ### Device reset (R555, R556, R608) -/

/-- RESET_N_LOW: after 10 µs low a device reset starts; while the rails ramp there is nothing to reset yet, and the row of 10.5 ms holds. -/
def execResetNLow (s : State) : Host.Outcome State Fault Refusal :=
  let s := { s with pins := { s.pins with resetN := false } }
  if s.isOn && s.mgmt.boot != .ramping then .next (deviceReset s) else .next s

/-- RESET_N_RELEASE: the held reset may go on from the 10.5 ms row. -/
def execResetNRelease (s : State) : Host.Outcome State Fault Refusal := .next { s with pins := { s.pins with resetN := true } }

/-- A write of MGT_RESET: the key starts a device reset, any other value is ignored. -/
def writeMgtReset (v : Dword) (s : State) : State := if bits v 0 32 = 0xA5C3 then deviceReset s else s

/-- MGT_RESET. -/
def execMgtReset (v : Dword) (s : State) : Host.Outcome State Fault Refusal :=
  hostWrite (slotWrite Off.mgtReset v) (writeMgtReset v) s

/-! ### The firmware image (R558, R559) -/

/-- BODY_LEN of an image. -/
def imageBody (l : List Byte) : Nat := byteField l 16 4

/-- Bytes of an image up to the end of its signature. -/
def imageSize (l : List Byte) : Nat := 64 + imageBody l + 7856

/-- An image without what follows its signature. -/
def imageOf (l : List Byte) : List Byte := l.take (imageSize l)

/-- SHA-256 of an image, bytes 0 to the end of its signature (R561). -/
def imageHash (l : List Byte) : Digest := sha256 (imageOf l)

/-- Do the layout and key of an image pass R558 and R559. -/
def imageValid (l : List Byte) (rom : Rom) : Bool :=
  let k := byteField l 6 1
  let pk := (l.drop 32).take 32
  byteField l 0 4 == 0x4D474C44 && byteField l 4 2 == 1 && decide (k ≤ 3) && byteField l 7 1 == 0 && byteField l 20 12 == 0 &&
  decide (imageBody l ≤ 4194304 - 7920) && decide (imageSize l ≤ l.length) &&
  sha256 pk == nth rom.keyHash k 0 && !nth rom.revoked k false &&
  Config.slhVerify (BitVec.ofNat 256 (fromLe pk)) (l.take (64 + imageBody l)) ((l.drop (64 + imageBody l)).take 7856)

/-- The code with which an image is refused, if it is. -/
def imageFault (l : List Byte) (rom : Rom) : Option Code :=
  if !imageValid l rom then some 0x6001 else if byteField l 8 4 < rom.minSvn.toNat then some 0x6002 else none

/-! ### The boot ROM (R554, R561, R564) -/

/-- The measurements and keys of the security block at a reset. -/
def startSecurity (s : State) : State :=
  let s := extendMeas 0 (sha256 (Config.fuseBytes s.rom.serial s.rom.minSvn)) (extendMeas 0 (sha256 Config.bootRom) s)
  { s with sec := { s.sec with idKey := Config.idKey s.rom.secret } }

/-- BOOT_ROM_START: the 10.5 ms row, unless RESET_N holds it; POWER_GOOD rises, the counter starts and the boot ROM runs. -/
def execBootRomStart (s : State) : Host.Outcome State Fault Refusal :=
  if (s.mgmt.boot == .ramping || s.mgmt.boot == .atReset) && s.pins.resetN then
    let s := startSecurity s
    .next { s with
      mgmt := { s.mgmt with boot := .rom, slotB := s.rom.nextSlot, tried := false }
      pins := { s.pins with powerGood := true } }
  else .next s

/-! ### What firmware restores from the MRAM (R316, R367, R387, R554, R561, R578) -/

/-- The records of the pinned area, in slot order. -/
def pinnedSlots (s : State) : List (Option Record) :=
  (List.range s.mram.pinnedUsed).map (fun i => Sparse.look (fun _ => none) s.mram.pinned i)

/-- Is a pinned slot valid: its CRC matches. -/
def slotValid (x : Option Record) : Bool := match x with | some r => r.crc == crc16 (recordBody r) | none => false

/-- Puts a record among others in ascending SEQ. -/
def bySeq (l : List Record) (r : Record) : List Record :=
  l.filter (fun x => decide (x.seq.toNat ≤ r.seq.toNat)) ++ [r] ++ l.filter (fun x => decide (r.seq.toNat < x.seq.toNat))

/-- Applies a pinned record: an update unit leaves service, or a core is quarantined and its work goes to the lowest free spare (R363, R367, R368). -/
def applyPinned (s : State) (r : Record) : State :=
  let t := bits r.unit 10 2
  let p := bits r.unit 0 10
  if r.code = 0x2066 then s.setUU t { s.uu t with inService := false }
  else if (r.code = 0x2083 ∨ r.code = 0x2085) ∧ bits r.unit 12 4 = 1 ∧ p < 68 then
    let x := s.ph t p
    let s := s.setPh t p { x with state := .quarantined, logical := none }
    match x.logical, s.freeSpare t with
    | some k, some q => s.setPh t q { s.ph t q with state := .spareCarrying, logical := some k }
    | some k, none => s.setPh t p { s.ph t p with last := some k }
    | none, _ => s
  else s

/-- Checks and applies the pinned area: 0x7011 for each record whose CRC fails. -/
def restorePinned (s : State) : State :=
  let l := pinnedSlots s
  let good := (l.filter slotValid).filterMap (fun x => x)
  let s := (l.filter (fun x => !slotValid x)).foldl (fun s _ => raise { code := 0x7011, unit := unitId 11 0 0 } s) s
  (good.foldl bySeq []).foldl applyPinned s

/-- Bytes of a retirement record as measured. -/
def retiredBytes : Retired → List Byte
  | .stripe q i => Config.retireBytes 0 q i
  | .mapOut q c => Config.retireBytes 1 q (flag c)
  | .dead q => Config.retireBytes 2 q 0
  | .degraded q => Config.retireBytes 3 q 0
  | .withdrawn n => Config.retireBytes 4 n 0

/-- The 64 bytes of a log slot (R384). -/
def slotBytes (x : Option Record) : List Byte :=
  match x with
  | some r => recordBody r ++ leBytes 2 r.crc.toNat
  | none => List.replicate 64 0

/-- The whole pinned area, in slot order. -/
def pinnedBytes (s : State) : List Byte :=
  (List.range pinnedSize).flatMap (fun i => slotBytes (Sparse.look (fun _ => none) s.mram.pinned i))

/-- Reads the MRAM: map, core maps, M2, calibration settings and the energy count. -/
def restoreMram (s : State) : State :=
  let s := restorePinned (rebuildMap s)
  let s := extendMeas 2 (sha256 (pinnedBytes s)) (extendMeas 2 (sha256 (s.mram.retirement.flatMap retiredBytes)) s)
  { s with
    mgmt := { s.mgmt with settings := s.mram.calibration }
    power := { s.power with energy := satAdd s.mram.energy s.power.energy.toNat } }

/-- An accepted image starts. -/
def startFirmware (l : List Byte) (s : State) : State :=
  let s := extendMeas 1 (imageHash l) s
  restoreMram { s with mgmt := { s.mgmt with
    boot := .firmware
    fwVersion := BitVec.ofNat 32 (byteField l 12 4)
    runSvn := BitVec.ofNat 32 (byteField l 8 4)
    imageDigest := imageHash l } }

/-- The image of the slot being booted. -/
def State.bootSlot (s : State) : List Byte := if s.mgmt.slotB then s.rom.slotB else s.rom.slotA

/-- Neither slot is accepted: recovery mode, with the link up (R560). -/
def recover (s : State) : State := { s with mgmt := { s.mgmt with boot := .recovery }, host := { s.host with modules := 2 } }

/-- FIRMWARE_IMAGE_CHECK: a slot is verified; a refused one is recorded with the slot in DETAIL, and the other slot is tried once. -/
def execFirmwareImageCheck (s : State) : Host.Outcome State Fault Refusal :=
  if s.mgmt.boot == .rom then
    match imageFault s.bootSlot s.rom with
    | none => .next (startFirmware s.bootSlot s)
    | some code =>
      let s := raise { code := code, unit := unitId 10 0 0, detail := BitVec.ofNat 32 (flag s.mgmt.slotB) } s
      if s.mgmt.tried then .next (recover s)
      else .next { s with mgmt := { s.mgmt with tried := true, slotB := !s.mgmt.slotB } }
  else .next s

/-- UCIE_TRAINING_DONE: the link carries traffic, READY is set, and the start-up check of the cabling plan is done (R411, R554, R557). -/
def execUcieTrainingDone (s : State) : Host.Outcome State Fault Refusal :=
  if s.mgmt.boot == .firmware then
    .next (planCheck { s with mgmt := { s.mgmt with boot := .ready }, host := { s.host with modules := 2 } })
  else .next s

end Sys2Proof.Machine
end

