-- ==== Sys2Proof/Machine/Checkpoint.lean ====
section
/-! DEFINITION. Logical checkpoints (R475 to R477, R516 to R523): the stream that CKPT_SAVE reads and CKPT_RESTORE writes. -/

namespace Sys2Proof.Machine

/-! ### Sections (R517 to R519) -/

/-- Slices of a forward copy (R242). -/
def slicesOf (u : UpdateCmd) : Nat := ((linesOf u false).lines + 255) / 256

/-- Lines of slice `k`. -/
def sliceLines (u : UpdateCmd) (k : Nat) : Nat := min 256 ((linesOf u false).lines - 256 * k)

/-- The KIND 4 section of slice `k` at rung 1 or 2, its form at `off` of the fall-back area (log 132). -/
def fallSection (c : CkptSection) (u : UpdateCmd) (k rung off : Nat) : CkptSection :=
  let l := linesOf u false
  let n := sliceLines u k
  let g := groupsOf l.len u.copyEnc.group
  let a := u.fallback + BitVec.ofNat 64 off
  let e := n * l.len * rung
  { tensor := c.tensor, kind := 4, format := 1, pieces := rung, firstIdx := lineIndex u false (256 * k) 0, rows := n, cols := l.len,
    elems := a, layout := 0, stride := l.len, pieceGap := n * l.len,
    scales := a + BitVec.ofNat 64 e, groups := g, scaleLayout := 0, scaleStride := g,
    rowScales := a + BitVec.ofNat 64 (e + n * g), hasRowScales := rung == 1 && u.copyEnc.rowScale == .dynamic, fall := none }

/-- The sections that a declared section gives: itself, and for a forward copy one of KIND 4 for each slice that is not at rung 0 (R518, R519). -/
def sectionsOf (c : CkptSection) (s : State) : List CkptSection :=
  c :: (match c.fall with
    | none => []
    | some u =>
      ((List.range (slicesOf u)).filter (fun k => rungOf 4 u k s != 0)).map (fun k =>
        fallSection c u k (rungOf 4 u k s) (formOffset 4 u k s)))

/-- The order of R517: tensor identity, KIND, FIRST. -/
def sectionBefore (a b : CkptSection) : Bool :=
  let k := a.kind.toNat
  let l := b.kind.toNat
  decide (a.tensor < b.tensor) || (a.tensor == b.tensor && (decide (k < l) || (k == l && decide (a.firstIdx ≤ b.firstIdx))))

/-- Inserts a section in order. -/
def insertSection (a : CkptSection) : List CkptSection → List CkptSection
  | [] => [a]
  | b :: r => if sectionBefore a b then a :: b :: r else b :: insertSection a r

/-- Every section of the stream, in order. -/
def allSections (p : Program) (s : State) : List CkptSection :=
  (p.image.sections.flatMap (fun c => sectionsOf c s)).foldr insertSection []

/-- Bits of an element of a section, by its FORMAT code (R327). -/
def secWidth (x : CkptSection) : Nat := nth [4, 8, 8, 16, 32, 8] x.format.toNat 8

/-- Elements of a section. -/
def secCount (x : CkptSection) : Nat := x.rows * x.cols

/-- ELEM_BYTES, SCALE_BYTES and ROW_BYTES of a section (R517, R519). -/
def secBytes (x : CkptSection) : Nat × Nat × Nat :=
  (x.pieces * packedBytes (secWidth x) (secCount x), x.rows * x.groups, if x.hasRowScales then 4 * x.rows else 0)

/-- The 64-byte header of a section (R517). -/
def sectionHeader (x : CkptSection) : List Byte :=
  let n := secBytes x
  leBytes 4 (x.tensor % 2 ^ 20) ++ [x.kind, x.format] ++ leBytes 1 x.pieces ++ [0] ++ leBytes 8 x.firstIdx ++ leBytes 8 (secCount x) ++
  leBytes 8 n.1 ++ leBytes 8 n.2.1 ++ leBytes 8 n.2.2 ++ List.replicate 16 0

/-- Bytes extended with zeros to a multiple of 64. -/
def pad64 (l : List Byte) : List Byte := l ++ List.replicate ((64 - l.length % 64) % 64) 0

/-- The matrices of a section's payload in the stacks, in its order: address, bits of a code, layout, rows, columns, row stride. -/
def secMatrices (x : CkptSection) : List (Nat × Nat × Nat × Nat × Nat × Nat) :=
  (List.range x.pieces).map (fun p => (x.elems.toNat + p * x.pieceGap, secWidth x, x.layout.val, x.rows, x.cols, x.stride)) ++
  (if x.groups = 0 then [] else [(x.scales.toNat, 8, x.scaleLayout.val, x.rows, x.groups, x.scaleStride)]) ++
  (if x.hasRowScales then [(x.rowScales.toNat, 32, 0, x.rows, 1, 4)] else [])

/-- The stack ranges of a section's payload. -/
def secRanges (x : CkptSection) : List (Nat × Nat) :=
  (secMatrices x).flatMap (fun m => shiftSpans m.1 (matrixRuns m.2.2.1 m.2.1 m.2.2.2.1 m.2.2.2.2.1 m.2.2.2.2.2))

/-- The bytes of one matrix of a payload: its codes in ascending logical index, packed (R519). -/
def matrixPayload (s : State) (m : Nat × Nat × Nat × Nat × Nat × Nat) : List Byte :=
  packCodes m.2.1 ((rowOrder m.2.2.2.1 m.2.2.2.2.1).map (fun p =>
    layoutCode m.2.2.1 m.2.1 m.2.2.2.1 m.2.2.2.2.1 m.2.2.2.2.2 (fun b => s.stackByte 4 (m.1 + b)) p.1 p.2))

/-- A section's bytes, with zeros to the next multiple of 64. -/
def sectionBytes (x : CkptSection) (s : State) : List Byte :=
  pad64 (sectionHeader x ++ (secMatrices x).flatMap (matrixPayload s))

/-- The 32 bytes of a digest. -/
def digestBytes (d : Digest) : List Byte := leBytes 32 d.toNat

/-- The 128-byte header (R516). STEP is a free value while no step has completed with status 0x0000 or 0x0001, since the manual states none (log 30). -/
def streamHeader (p : Program) (body : List Byte) (n : Nat) (s : State) : List Byte :=
  let step : Word := match s.goodStep with | some v => v | none => BitVec.ofNat 32 s.fresh.toNat
  leBytes 4 0x4B43534F ++ leBytes 2 1 ++ leBytes 2 (256 * p.image.major + p.image.minor) ++ leBytes 8 p.image.shape.toNat ++
  leBytes 4 step.toNat ++ leBytes 1 (flag s.intact) ++ List.replicate 3 0 ++ leBytes 4 n ++ leBytes 4 0 ++ leBytes 8 (128 + body.length) ++
  digestBytes (sha256 (digestBytes p.seed)) ++ digestBytes (sha256 body) ++ List.replicate 24 0

/-- The checkpoint stream as the device would save it now. -/
def ckptStream (p : Program) (s : State) : List Byte :=
  let xs := allSections p s
  let body := xs.flatMap (fun x => sectionBytes x s)
  streamHeader p body xs.length s ++ body

/-- `n` bytes of the stream from `off`; past its end the manual gives no bytes, and they are free (log 30). -/
def streamPart (p : Program) (off n : Nat) (s : State) : List Byte :=
  let l := ckptStream p s
  (List.range n).map (fun i => if off + i < l.length then nth l (off + i) 0 else BitVec.ofNat 8 (Config.freeValue (s.free + 1 + i)).toNat)

/-! ### CKPT_SAVE -/

/-- The fields that CKPT_SAVE and CKPT_RESTORE share: ADDR, OFFSET, LENGTH, TARGET. -/
def ckptFields (d : Desc) : Dword × Nat × Nat × Bool :=
  (BitVec.ofNat 64 (bits d.raw 64 64), bits d.raw 128 64, bits d.raw 192 32, bit d.raw 224)

/-- Is ADDR permitted: whole words, and on TARGET 1 stacked memory, for a save within the scratch part (R276, R292, R466). -/
def ckptAddrOk (save : Bool) (d : Desc) (s : State) : Bool :=
  let f := ckptFields d
  f.1.toNat % 4 == 0 && f.2.1 % 4 == 0 && f.2.2.1 % 4 == 0 &&
  (!f.2.2.2 || (hostRange f.1 f.2.2.1 s && (!save || s.inScratch f.1.toNat f.2.2.1)))

/-- CKPT_SAVE: waits until no step runs, then delivers a part of the stream to host memory or to stacked memory (R475, R520). -/
def execCkptSave (x : RingRead) (s : State) : Host.Outcome State Fault Refusal :=
  let r := x.ring
  let errs := x.errs
  if s.step.isSome then .next s
  else atHead r 6 (fun d s =>
    let f := ckptFields d
    match s.program with
    | none => completePlain r.val d 0x17 s
    | some p =>
      if f.2.2.1 = 0 then completePlain r.val d 0 s
      else if !ckptAddrOk true d s then completeAddress r.val d f.1 s
      else
        let s := asideRead 0 4 ((allSections p s).flatMap secRanges) errs s
        let bs := streamPart p f.2.1 f.2.2.1 s
        let s := s.skipFree (1 + f.2.2.1)
        completePlain r.val d 0 (if f.2.2.2 then hostStore f.1 bs s else s.emit (.host f.1 bs))) s

/-! ### CKPT_RESTORE -/

/-- The byte at an offset of a restored stream: that of the part completed last (R522). -/
def Restore.byte (x : Restore) (i : Nat) : Option Byte :=
  match x.parts.reverse.find? (fun p => decide (p.1 ≤ i) && decide (i < p.1 + p.2.length)) with
  | some p => some (nth p.2 (i - p.1) 0)
  | none => none

/-- `n` bytes from an offset, zero where none has come. -/
def Restore.bytes (x : Restore) (off n : Nat) : List Byte := (List.range n).map (fun i => (x.byte (off + i)).getD 0)

/-- A number of the restored stream. -/
def Restore.field (x : Restore) (off n : Nat) : Nat := fromLe (x.bytes off n)

/-- Has every byte that the header's LENGTH declares come (R477). -/
def Restore.covers (x : Restore) : Bool :=
  (List.range 128).all (fun i => (x.byte i).isSome) && (List.range (x.field 32 8)).all (fun i => (x.byte i).isSome)

/-- Offsets of the section headers of a restored stream; `k` bounds how many. -/
def sectionOffsets (x : Restore) : Nat → Nat → List Nat
  | 0, _ => []
  | k + 1, o =>
    o :: sectionOffsets x k ((o + 64 + x.field (o + 24) 8 + x.field (o + 32) 8 + x.field (o + 40) 8 + 63) / 64 * 64)

/-- Does the section at an offset hold the same tensor, KIND, FIRST and COUNT. -/
def sameSection (x : Restore) (o : Nat) (y : CkptSection) : Bool :=
  x.field o 4 % 2 ^ 20 == y.tensor % 2 ^ 20 && x.field (o + 4) 1 == y.kind.toNat && x.field (o + 8) 8 == y.firstIdx && x.field (o + 16) 8 == secCount y

/-- Writes bytes of a restored stream to the stacks, in whole words: what a word holds beside them stays (R276). -/
def restoreStore (a : Nat) (data : List Byte) (s : State) : State :=
  let lo := a / 4 * 4
  let hi := wordUp (a + data.length)
  if data.isEmpty then s
  else stackStore (.device 0 []) 4 lo (s.stackBytes 4 lo (a - lo) ++ data ++ s.stackBytes 4 (a + data.length) (hi - (a + data.length))) s

/-- Writes one matrix of a payload that begins at `off` of the stream in its layout; where the next begins. -/
def restoreMatrix (x : Restore) (acc : Nat × State) (m : Nat × Nat × Nat × Nat × Nat × Nat) : Nat × State :=
  let w := m.2.1
  let n := packedBytes w (m.2.2.2.1 * m.2.2.2.2.1)
  let bs := x.bytes acc.1 n
  let ws := matrixWrites m.2.2.1 w m.2.2.2.1 m.2.2.2.2.1 m.2.2.2.2.2 (fun r k => packedCode w bs (r * m.2.2.2.2.1 + k))
  (acc.1 + n, ws.foldl (fun s p => restoreStore (m.1 + p.1) p.2 s) acc.2)

/-- Writes the payload of the section at an offset to a section's place in the stacks. -/
def restoreSection (x : Restore) (o : Nat) (y : CkptSection) (s : State) : State := ((secMatrices y).foldl (restoreMatrix x) (o + 64, s)).2

/-- What the rebuilding of a forward copy's fall-back area has done: bytes filled, rungs, state. -/
structure FallWork where
  off   : Nat
  rungs : List Byte
  s     : State

/-- Rebuilds the form and the rung of one slice from the KIND 4 section present, if there is one (R519). -/
def restoreSlice (x : Restore) (offs : List Nat) (c : CkptSection) (u : UpdateCmd) (a : FallWork) (k : Nat) : FallWork :=
  match offs.find? (fun o => sameSection x o (fallSection c u k 1 a.off)) with
  | some o =>
    let rung := if x.field (o + 6) 1 = 1 then 1 else 2
    { off := a.off + formBytes u.copyEnc (linesOf u false).len (sliceLines u k) rung, rungs := a.rungs ++ [BitVec.ofNat 8 rung],
      s := restoreSection x o (fallSection c u k rung a.off) a.s }
  | none => { a with rungs := a.rungs ++ [0] }

/-- Rebuilds the rung map and the fall-back area of a forward copy (R519). -/
def restoreFall (x : Restore) (offs : List Nat) (c : CkptSection) (u : UpdateCmd) (s : State) : State :=
  let a := (List.range (slicesOf u)).foldl (restoreSlice x offs c u) { off := 0, rungs := [], s := s }
  restoreStore u.rungMap.toNat a.rungs a.s

/-- Puts a whole restored stream into the stacks; the first RUN_STEP after it may carry any STEP (R470, R477). -/
def applyRestore (x : Restore) (p : Program) (s : State) : State :=
  let offs := sectionOffsets x (x.field 24 4) 128
  let s := p.image.sections.foldl (fun s c =>
    let s := match offs.find? (fun o => sameSection x o c) with | some o => restoreSection x o c s | none => s
    match c.fall with | some u => restoreFall x offs c u s | none => s) s
  { s with last := none, goodStep := some (BitVec.ofNat 32 (x.field 16 4)), intact := x.field 20 1 == 1 }

/-- Takes one restored part; when the stream is covered it is put in place. -/
def takePart (off : Nat) (bs : List Byte) (p : Program) (s : State) : State :=
  let old := match s.host.restore with | some x => x.parts | none => []
  let x : Restore := { parts := old ++ [(off, bs)], complete := false }
  let x := { x with complete := x.covers }
  let s := { s with host := { s.host with restore := some x } }
  if x.complete then applyRestore x p s else s

/-- Carries out a restore whose bytes have come: the shape words are compared, then the part is taken (R476). -/
def restorePart (r : Nat) (d : Desc) (bs : List Byte) (p : Program) (s : State) : State :=
  let shape : Dword := BitVec.ofNat 64 (bits d.raw 256 64)
  let off := (ckptFields d).2.1
  if off = 0 ∧ 16 ≤ bs.length ∧ byteField bs 8 8 ≠ shape.toNat then completeRaise r d 0x14 { code := 0x4030, unit := 0 } s
  else completePlain r d 0 (takePart off bs p s)

/-- CKPT_RESTORE: waits until no step runs, then takes a part of the stream from host memory or from stacked memory (R475 to R477). -/
def execCkptRestore (r : Fin 16) (x : HostMove) (s : State) : Host.Outcome State Fault Refusal :=
  let read := x.read
  let errs := x.errs
  if s.step.isSome then .next s
  else atHead r 7 (fun d s =>
    let f := ckptFields d
    match s.program with
    | none => completePlain r.val d 0x17 s
    | some p =>
      if f.2.2.1 = 0 then completePlain r.val d 0 s
      else if !ckptAddrOk false d s then completeAddress r.val d f.1 s
      else if BitVec.ofNat 64 (bits d.raw 256 64) ≠ s.shape then completeRaise r.val d 0x14 { code := 0x4030, unit := 0 } s
      else if f.2.2.2 then
        let x := hostLoad f.1 f.2.2.1 errs s
        restorePart r.val d x.1 p x.2
      else match read with
        | .error e => completeHost r.val d false e s
        | .timeout e => completeHost r.val d true e s
        | .ok bs => if bs.length = f.2.2.1 then restorePart r.val d bs p s else s) s

end Sys2Proof.Machine
end

