-- ==== Sys2Proof/Machine/Management.lean ====
section
/-! DEFINITION. Firmware update and commit (R562, R563), attestation (R565, R566), the management complex (R570 to R574) and
telemetry (R581). -/

namespace Sys2Proof.Machine

/-- Unit id of the security block. -/
def unitSec : UnitId := unitId 10 0 0

/-- May attestation and firmware update requests go on: not in step 3 of overload, and not while Dealmeg resets or is halted (R570, R573). -/
def State.securityRuns (s : State) : Bool := !s.mgmt.secWait && !s.mgmt.resetting && !s.mgmt.halted

/-- Logs and raises a failed request to host memory (R450). -/
def hostFailure (write timeout : Bool) (a : Dword) (s : State) : State :=
  let code : Code := if timeout then 0x4011 else 0x4010
  raise { code := code, unit := 0, addr := a } (logErr 2 write code a s)

/-! ### Firmware update (R562, R563) -/

/-- Refuses a firmware update with a STATUS. -/
def refuseUpdate (status : Nat) (s : State) : State :=
  raise { code := 0x6004, unit := unitSec } { s with sec := { s.sec with fwStatus := status } }

/-- GO: an update begins, or is refused while a program is loaded or an update is busy. -/
def goUpdate (s : State) : State :=
  if s.program.isSome || s.sec.fwBusy then refuseUpdate 5 s
  else { s with sec := { s.sec with fwBusy := true, fwStatus := 1 } }

/-- COMMIT: the fused minimum SVN rises to that of the running firmware. -/
def commitSvn (s : State) : State :=
  { s with rom := { s.rom with minSvn := if s.rom.minSvn.toNat < s.mgmt.runSvn.toNat then s.mgmt.runSvn else s.rom.minSvn } }

/-- A write of SEC_FW_CTL. -/
def writeFwCtl (v : Dword) (s : State) : State :=
  let s := if bit v 1 then commitSvn s else s
  if bit v 0 then goUpdate s else s

/-- FW_UPDATE_GO: a write of SEC_FW_CTL with GO = 1. -/
def execFwUpdateGo (v : Dword) (s : State) : Host.Outcome State Fault Refusal :=
  hostWrite (slotWrite Off.fwCtl (v ||| 1)) (writeFwCtl (v ||| 1)) s

/-- FW_COMMIT: a write of SEC_FW_CTL with COMMIT = 1. -/
def execFwCommit (v : Dword) (s : State) : Host.Outcome State Fault Refusal :=
  hostWrite (slotWrite Off.fwCtl (v ||| 2)) (writeFwCtl (v ||| 2)) s

/-- Slot that an accepted image is written to: the one that did not boot, or in recovery mode the one that NEXT_SLOT names. -/
def State.updateSlot (s : State) : Bool := if s.mgmt.boot == .recovery then s.rom.nextSlot else !s.mgmt.slotB

/-- Writes an image to a slot, which becomes NEXT_SLOT. -/
def writeSlot (b : Bool) (l : List Byte) (s : State) : State :=
  { s with rom := { s.rom with slotA := if b then s.rom.slotA else l, slotB := if b then l else s.rom.slotB, nextSlot := b } }

/-- Judges the image of an update. -/
def takeUpdate (l : List Byte) (s : State) : State :=
  match imageFault l s.rom with
  | none => writeSlot s.updateSlot (imageOf l) { s with sec := { s.sec with fwStatus := 2 } }
  | some code => refuseUpdate (if code = 0x6002 then 4 else 3) s

/-- FW_UPDATE_DONE: the image is read and checked, and written to a slot or refused with 0x6004. -/
def execFwUpdateDone (read : HostRead) (s : State) : Host.Outcome State Fault Refusal :=
  if s.sec.fwBusy && s.securityRuns then
    let s := { s with sec := { s.sec with fwBusy := false } }
    match read with
    | .ok l => .next (takeUpdate (l.take (bits (s.reg Off.fwLen) 0 32)) s)
    | .error a => .next (refuseUpdate 6 (hostFailure false false a s))
    | .timeout a => .next (refuseUpdate 6 (hostFailure false true a s))
  else .next s

/-! ### Attestation (R565, R566) -/

/-- The nonce that the host has written. -/
def State.nonceIn (s : State) : Digest :=
  BitVec.ofNat 256 ((List.range 4).foldl (fun n i => n + (s.reg (Off.nonce + 8 * i)).toNat * 2 ^ (64 * i)) 0)

/-- A write of SEC_ATTEST_CTL: GO latches the nonce and starts a request; one while busy is ignored. -/
def writeAttCtl (v : Dword) (s : State) : State :=
  if bit v 0 && s.sec.attStatus != 1 then { s with sec := { s.sec with attStatus := 1, nonce := s.nonceIn } } else s

/-- ATTEST_GO: a write of SEC_ATTEST_CTL with GO = 1. -/
def execAttestGo (v : Dword) (s : State) : Host.Outcome State Fault Refusal :=
  hostWrite (slotWrite Off.attCtl (v ||| 1)) (writeAttCtl (v ||| 1)) s

/-- A list cut or filled with zeros to `n` bytes. -/
def fitBytes (n : Nat) (l : List Byte) : List Byte := (l ++ List.replicate (n - l.length) 0).take n

/-- A measurement register. -/
def State.measure (s : State) (m : Nat) : Digest := Sparse.look (fun _ => 0) s.sec.meas m

/-- The 256-byte report. -/
def reportBytes (s : State) : List Byte :=
  leBytes 4 0x54415444 ++ leBytes 2 1 ++ leBytes 2 0 ++ leBytes 8 s.rom.serial.toNat ++ leBytes 32 s.sec.nonce.toNat ++
  leBytes 8 s.now.toNat ++ leBytes 8 s.shape.toNat ++ leBytes 4 s.mgmt.fwVersion.toNat ++ leBytes 4 s.rom.minSvn.toNat ++
  (List.range 4).flatMap (fun m => leBytes 32 (s.measure m).toNat) ++ leBytes 8 s.power.energy.toNat ++
  leBytes 4 s.mram.nextSeq.toNat ++ leBytes 44 0

/-- The 16,032 bytes of an attestation: report, signature, certificate. -/
def attestBytes (s : State) : List Byte :=
  let r := reportBytes s
  r ++ fitBytes 7856 (Config.slhSign s.rom.secret r) ++ fitBytes 7920 s.rom.cert

/-- Ends an attestation request that failed. -/
def failAttest (status : Nat) (s : State) : State :=
  raise { code := 0x6005, unit := unitSec } { s with sec := { s.sec with attStatus := status } }

/-- ATTEST_DONE: the report is written to host memory, or the request fails with 0x6005. -/
def execAttestDone (hostOk : Bool) (s : State) : Host.Outcome State Fault Refusal :=
  if s.sec.attStatus == 1 && s.securityRuns then
    let a := s.reg Off.attAddr
    if a.toNat % 64 != 0 then .next (failAttest 3 s)
    else if hostOk then .next { s.emit (.host a (attestBytes s)) with sec := { s.sec with attStatus := 2 } }
    else .next (failAttest 4 (hostFailure true false a s))
  else .next s

/-! ### Management reset (R572 to R574) -/

/-- WATCHDOG_EXPIRY: a Dealmeg core has not serviced its watchdog, and the management complex resets with 0x7001. -/
def execWatchdogExpiry (core : Fin 4) (s : State) : Host.Outcome State Fault Refusal :=
  if s.dealmeg then
    let s := { s with mgmt := { s.mgmt with
      resetting := true, resets := s.mgmt.resets ++ [s.now], busy := [0, 0, 0, 0], overloadRun := [0, 0, 0, 0], overload := false,
      factor := 1, drainStopped := false, secWait := false } }
    .next (raise { code := 0x7001, unit := unitId 9 0 core.val } (s.count Off.mgtCount 0))
  else .next s

/-- Is the last management reset the third within 600 s. -/
def thirdReset (l : List Dword) : Bool :=
  match l.reverse with
  | c :: _ :: a :: _ => decide (c.toNat ≤ a.toNat + 600000000000)
  | _ => false

/-- Dealmeg stays halted, with a code. -/
def haltDealmeg (code : Code) (s : State) : State :=
  raise { code := code, unit := unitId 9 0 0 } { s with mgmt := { s.mgmt with halted := true, resetting := false } }

/-- MANAGEMENT_RESTART: Dealmeg resumes when its slot still has the digest of M1 and resets have not come too often. -/
def execManagementRestart (s : State) : Host.Outcome State Fault Refusal :=
  if s.mgmt.resetting then
    if imageHash s.bootSlot ≠ s.mgmt.imageDigest then .next (haltDealmeg 0x6003 s)
    else if thirdReset s.mgmt.resets then .next (haltDealmeg 0x7002 s)
    else .next { s with mgmt := { s.mgmt with resetting := false } }
  else .next s

/-! ### Overload (R570) -/

/-- One more overloaded window: the next response in order. -/
def overloadMore (s : State) : State :=
  let m := s.mgmt
  if m.factor < 16 then
    let t := { s with mgmt := { m with factor := 2 * m.factor } }
    if m.factor = 1 then raise { code := 0x0040, unit := unitId 9 0 0 } t else t
  else if !m.drainStopped then { s with mgmt := { m with drainStopped := true } }
  else { s with mgmt := { m with secWait := true } }

/-- A window without overload: the last response unwinds. -/
def overloadLess (s : State) : State :=
  let m := s.mgmt
  if m.secWait then { s with mgmt := { m with secWait := false } }
  else if m.drainStopped then { s with mgmt := { m with drainStopped := false } }
  else { s with mgmt := { m with factor := max 1 (m.factor / 2) } }

/-- LOAD_WINDOW: a 10 ms window ends, with the busy percentage of each core. -/
def execLoadWindow (busy : List Byte) (s : State) : Host.Outcome State Fault Refusal :=
  if s.dealmeg then
    let runs := (List.range 4).map (fun c => if 90 < (nth busy c 0).toNat then nth s.mgmt.overloadRun c 0 + 1 else 0)
    let beyond := runs.any (fun n => decide (3 ≤ n))
    let was := s.mgmt.overload
    let s := { s with mgmt := { s.mgmt with busy := (List.range 4).map (fun c => nth busy c 0), overloadRun := runs, overload := beyond } }
    if !beyond then .next (overloadLess s) else if was then .next (overloadMore s) else .next s
  else .next s

/-! ### Telemetry (R581) -/

/-- MGT_LOAD. -/
def State.loadWord (s : State) : Dword :=
  BitVec.ofNat 64 (byteField s.mgmt.busy 0 4 + 2 ^ 32 * s.mgmt.factor + 2 ^ 37 * flag s.mgmt.overload + 2 ^ 38 * s.mgmt.queue.length)

/-- The count arrays that a snapshot holds, with their lengths. -/
def telemCounts : List (Nat × Nat) :=
  [(Off.qzCount, 7), (Off.mxCount, 6), (Off.vxCount, 5), (Off.uuCount, 6), (Off.memCount, 8), (Off.relCount, 9), (Off.fabCount, 10),
   (Off.hifCount, 6), (Off.mgtCount, 6)]

/-- Interval in effect, in ms. -/
def State.telemInterval (s : State) : Nat := max 1 (bits (s.reg Off.telemCtl) 8 8) * s.mgmt.factor

/-- The 16 bins of a monitor. -/
def Monitor.binList (x : Monitor) : List Word := (List.range 16).map (fun b => Sparse.look (fun _ => 0) x.bins b)

/-- An 8 KiB snapshot. -/
def snapshotBytes (s : State) : List Byte :=
  let head := leBytes 8 s.now.toNat ++ leBytes 4 s.mgmt.telemSeq.toNat ++ leBytes 4 s.telemInterval ++ leBytes 8 s.loadWord.toNat
  let mons := (List.range 64).flatMap (fun m =>
    let x := s.monitor m
    leBytes 4 x.min.toNat ++ leBytes 4 x.max.toNat ++ leBytes 4 x.last.toNat ++ leBytes 12 0)
  let bins := (List.range 64).flatMap (fun m => ((s.monitor m).binList).flatMap (fun w => leBytes 4 w.toNat))
  let counts := telemCounts.flatMap (fun a => (List.range a.2).flatMap (fun n => leBytes 8 (s.reg (a.1 + 8 * n)).toNat))
  fitBytes 64 head ++ fitBytes 1984 mons ++ bins ++ fitBytes 2048 counts

/-- TELEMETRY_SNAPSHOT: a snapshot goes to the next place of the ring of 64; a ring outside the scratch part gives 0x7040, once for one setting of MGT_TELEM_CTL. -/
def execTelemetrySnapshot (s : State) : Host.Outcome State Fault Refusal :=
  let ctl := s.reg Off.telemCtl
  let a := bits ctl 16 24 * stripeBytes
  if s.dealmeg && bit ctl 0 then
    if !s.inScratch a (4 * stripeBytes) then
      (if s.mgmt.telemOff then .next s
       else .next (raise { code := 0x7040, unit := unitId 9 0 0 } { s with mgmt := { s.mgmt with telemOff := true } }))
    else
      let t := stackPut (.device 0 []) 4 (a + 8192 * (s.mgmt.telemSeq.toNat % 64)) (snapshotBytes s) s
      .next ({ t with mgmt := { t.mgmt with telemSeq := t.mgmt.telemSeq + 1, telemOff := false } }.count Off.mgtCount 3)
  else .next s

/-- A write of MGT_TELEM_CTL. -/
def writeTelemCtl (o width : Nat) (v : Dword) (s : State) : State :=
  let s := storeValue o width v s
  { s with mgmt := { s.mgmt with telemOff := false } }

end Sys2Proof.Machine
end

