-- ==== Sys2Proof/Machine/Pins.lean ====
section
/-! DEFINITION. The I3C target (R610) and the test access port (R611). -/

namespace Sys2Proof.Machine

/-! ### I3C (R610) -/

/-- The status page as it is refreshed. -/
def pageBytes (s : State) : List Byte :=
  let m := s.mgmt
  leBytes 1 (flag (m.boot == .ready) + 2 * flag (m.boot == .recovery) + 4 * flag m.halted + 8 * flag (s.tileHotNow || s.stackHotNow)) ++
  [s.mram.cause] ++ leBytes 2 (min 65535 s.power.watts) ++ leBytes 2 s.power.vin.toNat ++ leBytes 2 s.hottestTile.toNat ++
  leBytes 2 s.hottestStack.toNat ++ leBytes 1 s.power.point ++ leBytes 1 (flag s.rom.grade240) ++ leBytes 8 s.rom.serial.toNat ++
  leBytes 8 s.power.energy.toNat ++ leBytes 4 0

/-- A byte of the page; one past its end, or before the first refresh, is free (log 2). -/
def pageByte (i k : Nat) (s : State) : Byte :=
  match s.pins.page[i]? with
  | some b => b
  | none => BitVec.ofNat 8 (Config.freeValue (s.free + k)).toNat

/-- I3C_PRIVATE_READ: bytes of the page from the read pointer on, while VAUX is on. -/
def execI3cPrivateRead (n : Nat) (s : State) : Host.Outcome State Fault Refusal :=
  if s.isOn then .next ((s.emit (.i3c ((List.range n).map (fun k => pageByte (s.pins.ptr + k) k s)))).skipFree n) else .next s

/-- I3C_POINTER_WRITE: one byte sets the read pointer; any longer write is acknowledged and discarded. -/
def execI3cPointerWrite (bytes : List Byte) (s : State) : Host.Outcome State Fault Refusal :=
  match bytes with
  | [b] => if s.isOn then .next { s with pins := { s.pins with ptr := b.toNat } } else .next s
  | _ => .next s

/-- I3C_STATUS_REFRESH: every 1 ms. -/
def execI3cStatusRefresh (s : State) : Host.Outcome State Fault Refusal :=
  if s.isOn then .next { s with pins := { s.pins with page := pageBytes s } } else .next s

/-! ### The test access port (R611) -/

/-- One bit through the bypass register. -/
def bypassShift (tdi : Bool) (s : State) : State :=
  { s.emit (.tdo (if s.pins.bypassBit then 1 else 0)) with pins := { s.pins with bypassBit := tdi } }

/-- BYPASS. -/
def execBypass (tdi : Bool) (s : State) : Host.Outcome State Fault Refusal := .next (bypassShift tdi s)

/-- IDCODE. -/
def execIdcode (s : State) : Host.Outcome State Fault Refusal := .next (s.emit (.tdo 0x14B42C6B))

/-- The boundary cells exchange their captured values, which the manual does not lay out and which are free (log 2), for new ones. -/
def shiftCells (cells : List Bool) (s : State) : State :=
  let out := (List.range cells.length).map (fun k => (Config.freeValue (s.free + k)).toNat.testBit 0)
  ({ s.emit (.tdoCells out) with pins := { s.pins with cells := cells } }).skipFree cells.length

/-- SAMPLE_PRELOAD: the cells are sampled and loaded, at all times. -/
def execSamplePreload (cells : List Bool) (s : State) : Host.Outcome State Fault Refusal := .next (shiftCells cells s)

/-- EXTEST: the cells are driven only while RESET_N is low; otherwise the port acts as BYPASS. -/
def execExtest (cells : List Bool) (s : State) : Host.Outcome State Fault Refusal :=
  if s.pins.resetN then .next (cells.foldl (fun s b => bypassShift b s) s) else .next (shiftCells cells s)

end Sys2Proof.Machine
end

