-- ==== Sys2Proof/Machine/StepEnd.lean ====
section
/-! DEFINITION. The end of a training step (R269): its status and completion entry (R487 to R489), its ledger entry (R546 to
R549), and what the step boundary does (R41, R44, R295, R357, R359, R365, R584). -/

namespace Sys2Proof.Machine

/-! ### Has the step ended (R269) -/

/-- Has a core completed its last command. -/
def CoreSt.idle (k : CoreSt) : Bool :=
  k.stalled.isNone && k.queues.all (fun x => x.2.isEmpty) && k.running.all (fun x => x.2.isNone)

/-- Has an update unit completed its last command. -/
def UnitSt.idle (u : UnitSt) : Bool := u.held.isEmpty && u.running.isNone

/-- Have every core and every update unit completed the last command of the step. -/
def allIdle (s : State) : Bool := s.cores.all (fun x => x.2.idle) && s.units.all (fun x => x.2.idle)

/-! ### Status (R366, R369, R425, R487 to R489) -/

/-- Places that the loaded program needs and the device cannot fill: a tile with fewer logical cores placed than the program's shape, or no update unit in service. -/
def sparesShort (s : State) : Bool :=
  (match s.program with
   | some p => (List.range 4).any (fun t =>
       decide (((List.range 68).filter (fun q => (s.ph t q).logical.isSome)).length < bits p.image.shape 24 8))
   | none => false) ||
  (List.range 4).all (fun t => !(s.uu t).inService)

/-- The statuses that apply to a step with the SEQ that set each, in the order of their records. -/
def stepCauses (r : StepRun) (s : State) : List (BitVec 16 × Word) :=
  r.causes ++ (if sparesShort s then [(6, s.sparesOut.getD noSeq)] else []) ++
  (if r.aborted then [(5, noSeq)] else []) ++ (if r.skipped then [(1, noSeq)] else [])

/-- The order of R489. -/
def statusOrder : List (BitVec 16) := [2, 3, 4, 5, 6, 7, 1]

/-- STATUS of a step and the SEQ of the first record that set it. -/
def stepStatus (r : StepRun) (s : State) : BitVec 16 × Word :=
  let l := stepCauses r s
  match statusOrder.find? (fun x => l.any (fun c => c.1 == x)) with
  | some x => (x, match l.find? (fun c => c.1 == x) with | some c => c.2 | none => noSeq)
  | none => (0, noSeq)

/-- The completion entry of a step (R487). -/
def stepEntry (r : StepRun) (d : Desc) (s : State) : Entry :=
  let st := stepStatus r s
  { descEntry r.ring.val d st.1 st.2 s with
    kind := 1, applied := r.applied, step := r.number, detail := BitVec.ofNat 32 (min r.records (2 ^ 32 - 1)),
    valueVary := BitVec.ofNat 16 (min r.valueVary 65535), timingVary := BitVec.ofNat 16 (min r.timingVary 65535) }

/-- Completes the RUN_STEP of the step, unless a lost link has completed it already (R446). -/
def completeStep (r : StepRun) (s : State) : State :=
  match (s.sq r.ring.val).fetched with
  | d :: _ => if d.op = 3 ∧ d.begun then completeWith r.ring.val (stepEntry r d s) s else s
  | [] => s

/-! ### The ledger (R546 to R549) -/

/-- An energy field, which saturates. -/
def sat32 (n : Nat) : Nat := min n (2 ^ 32 - 1)

/-- INPUT: the eight consumer fields add up to it exactly (R547). -/
def inputEnergy (m : StepMeasure) : Nat :=
  sat32 (m.matrix + m.vector + m.stack + m.scratch + m.serdes + m.hub + m.leakage + m.conversion)

/-- Weighted products of a step (R548). -/
def weighted (m : StepMeasure) : Nat := m.fp4 + 2 * m.wide

/-- The ledger entry of a step; a ratio with no products, and TOKENS_PER_MWH with no energy, are free (log 2). -/
def ledgerOf (r : StepRun) (m : StepMeasure) (s : State) : Ledger :=
  let ok := (stepStatus r s).1 == 0
  let tokens := if ok then bits (s.act Off.stepTokens) 0 32 else 0
  let input := inputEnergy m
  let w := weighted m
  { step := r.number, ok := ok, limited := r.limited, miss := s.power.miss, stackResp := r.stackResp, tileResp := r.tileResp,
    point := s.power.point, start := r.start, finish := s.now, m := m,
    floorRatio := if w = 0 then BitVec.ofNat 16 s.fresh.toNat
      else BitVec.ofNat 16 (min 65535 (m.matrix * 1000000000000 * 65536 / (w * floorFj))),
    tileMax := r.tileHot, stackMax := r.stackHot, tokens := tokens,
    perMwh := if tokens = 0 then 0 else if input = 0 then Config.freeValue (s.free + 1)
      else BitVec.ofNat 64 (tokens * 3600000000000 / input),
    temps := (List.range 4).map (fun t => (s.tileT t).temp) }

/-- Closes the step's ledger entry in the ring of 256. -/
def closeLedger (r : StepRun) (m : StepMeasure) (s : State) : State :=
  let l := ledgerOf r m s
  let p := s.power
  let n := (p.ledgerNext + 1) % 256
  { s with
    power := { p with
      ledger := Sparse.store (fun _ => none) p.ledger p.ledgerNext (some l), ledgerNext := n,
      ledgerWrapped := p.ledgerWrapped || (Sparse.look (fun _ => none) p.ledger p.ledgerNext).isSome,
      lastGood := if l.ok then some l else p.lastGood }
    free := s.free + 2 }

/-- The 128 bytes of a ledger entry (R546). -/
def ledgerBytes (l : Ledger) : List Byte :=
  let e (n : Nat) : List Byte := leBytes 4 (sat32 n)
  leBytes 4 l.step.toNat ++
  [BitVec.ofNat 8 (flag l.ok + 2 * flag l.limited + 4 * flag l.miss + 8 * flag l.stackResp + 16 * flag l.tileResp), BitVec.ofNat 8 l.point, 0, 0] ++
  leBytes 8 l.start.toNat ++ leBytes 8 l.finish.toNat ++ e (inputEnergy l.m) ++
  e l.m.matrix ++ e l.m.vector ++ e l.m.stack ++ e l.m.scratch ++ e l.m.serdes ++ e l.m.hub ++ e l.m.leakage ++ e l.m.conversion ++
  e l.m.fabricWait ++ leBytes 8 l.m.fp4 ++ leBytes 8 l.m.wide ++ leBytes 8 l.m.idle ++ leBytes 2 l.floorRatio.toNat ++
  leBytes 2 l.m.vcoreAvg ++ leBytes 2 l.tileMax.toNat ++ leBytes 2 l.stackMax.toNat ++ leBytes 4 l.tokens ++
  leBytes 8 l.perMwh.toNat ++ e l.m.limitUs ++ List.replicate 16 0

/-! ### The boundary -/

/-- A core at a step boundary: queues, tokens, command index and positions at their start, epochs 0 and open, contents of its memories undefined (R41, R44, R357); `n` numbers the free contents. -/
def boundaryCore (n : Nat) (k : CoreSt) : CoreSt :=
  { k with
    queues := [], stalled := none, running := [], tokens := [], index := 0, vcount := 0, blocks := [], samples := [], remote := none
    regions := Sparse.mapVals (fun _ => none) (fun x => x.map (fun r => { r with epoch := 0, owner := none })) k.regions
    sp := { cells := [], fill := some n }, acc := { cells := [], fill := some (n + 1) }, oc := { cells := [], fill := some (n + 2) } }

/-- Every core at a step boundary. -/
def boundaryCores (s : State) : State :=
  { s with
    cores := (List.range 256).map (fun k => (k, boundaryCore (s.free + 3 * k) (Sparse.look (fun _ => CoreSt.empty) s.cores k)))
    free := s.free + 768 }

/-- An update unit at a step boundary: nothing held, the next number 0 (R246, R249, R250). -/
def boundaryUnit (u : UnitSt) : UnitSt :=
  { u with held := [], running := none, next := 0, received := [], norm := 0, clip := one32, flags := 0, applied := [] }

/-- The step's end seen by the program's order, the state that a checkpoint describes, and the governor (R470, R516, R536, R569). -/
def noteEnd (r : StepRun) (st : BitVec 16) (s : State) : State :=
  let good := st == 0 || st == 1
  let s := { s with
    step := none
    last := some { number := r.number, applied := r.applied, ended := true }
    goodStep := if good then some r.number else s.goodStep
    intact := s.intact || good
    fabric := { s.fabric with early := [], aborted := [] }
    mem := { s.mem with lines := [], fetching := [] }
    power := { s.power with chosen := false } }
  match s.power.later with
  | some x => setPoint x s
  | none => s

/-- STEP_END: the step's entry, ledger entry and boundary actions, in order; an armed turn comes before the governor, and a sanitize operation goes on. -/
def endStep (r : StepRun) (m : StepMeasure) (s : State) : State :=
  let st := (stepStatus r s).1
  let s := noteEnd r st (completeStep r (closeLedger r m s))
  let s := if s.boundaryTurn then doTurn s else s
  let s := boundaryCores { s with units := Sparse.mapVals (fun _ => UnitSt.empty) boundaryUnit s.units }
  let s := (List.range 4).foldl boundaryTile (classifyStep r s)
  if s.host.sanitizing.isSome then clearWork s else s

/-- STEP_END: every core and update unit has completed the last command of the step. -/
def execStepEnd (m : StepMeasure) (s : State) : Host.Outcome State Fault Refusal :=
  match s.step with
  | some r => if allIdle s then .next (endStep r m s) else .next s
  | none => .next s

end Sys2Proof.Machine
end

