-- ==== Sys2Proof/Machine/Registers.lean ====
section
/-! DEFINITION. Host writes of registers (R8 to R11, R582 to R586, R589 to R592) and what a host read of each register
returns (R11, R588 to R594). -/

namespace Sys2Proof.Machine

/-! ### Writes -/

/-- A write to a W1C register: a 1 clears a bit. Clearing HIF_ERR_INFO.VALID re-arms the capture and restarts COUNT. -/
def writeW1c (o width : Nat) (v : Dword) (s : State) : State :=
  let ones := mergeWrite 0 o width v
  let k := slotOf o
  if k = Off.detStatus then s.setReg k (s.reg k &&& ~~~(ones &&& 7))
  else if k = Off.errInfo then (if bit ones 0 then (s.setField k 0 1 0).setField k 32 32 0 else s)
  else
    { s with mgmt := { s.mgmt with
      late := s.mgmt.late && !bit ones 32, cancelled := s.mgmt.cancelled && !bit ones 33 } }

/-- Is a slot a W1C register. -/
def isW1c (k : Nat) : Bool := k == Off.detStatus || k == Off.errInfo || k == Off.turnStatus

/-- A write of half or all of an MSI-X table slot: address, or data and vector control; unmasking sends a pending message. -/
def writeMsix (o width : Nat) (v : Dword) (s : State) : State :=
  let n := (slotOf o - Off.msix 0) / 16
  let x := s.vec n
  if slotOf o % 16 = 0 then s.setVec n { x with addr := mergeWrite x.addr o width v }
  else
    let w := mergeWrite (BitVec.ofNat 64 (x.data.toNat + 2 ^ 32 * flag x.masked)) o width v
    let s := s.setVec n { x with data := BitVec.ofNat 32 (bits w 0 32), masked := x.masked || bit w 32 }
    if bit w 32 then s else unmask n s

/-- The write of a register that is neither W1C nor part of the MSI-X table: SH values go to the shadow set, or wait for the end of its refill; the registers whose write acts do so; RO registers stay. -/
def writeOther (o width : Nat) (v : Dword) (s : State) : State :=
  let k := slotOf o
  let w := mergeWrite (s.reg k) o width v
  let r := (k - Off.sqBase 0) / 0x40
  if shOffsets.contains k then
    (if s.mgmt.refilling then { s with mgmt := { s.mgmt with heldWrites := s.mgmt.heldWrites ++ [(o, width, v)] } } else storeValue o width v s)
  else if inArray k (Off.sqCfg 0) 0x40 16 then writeSqCfg r w s
  else if inArray k (Off.cqCfg 0) 0x40 16 then writeCqCfg r w s
  else if inArray k (Off.monCfg 0) 0x100 64 then writeMonCfg ((k - Off.monCfg 0) / 0x100) w s
  else if k = Off.telemCtl then writeTelemCtl o width v s
  else if k = Off.planCtl then writePlanCtl w s
  else if k = Off.mgtReset then writeMgtReset w s
  else if k = Off.fwCtl then writeFwCtl w s
  else if k = Off.attCtl then writeAttCtl w s
  else if o % 8 ≠ 0 ∧ (k = Off.turnCtl ∨ k = Off.injectCtl ∨ k = Off.fabInject) then s
  else if inArray k (Off.plan 0) 8 48 then writePlan ((k - Off.plan 0) / 8) (storeValue o width v s)
  else if k = Off.turnCtl then writeTurnCtl w s
  else if k = Off.injectCtl then writeInjectCtl w s
  else if k = Off.fabInject then writeFabInject w s
  else if writeMask k = 0 then s
  else storeValue o width v s

/-- A host write of 4 or 8 bytes at an implemented offset of BAR0. -/
def writeReg (o width : Nat) (v : Dword) (s : State) : State :=
  let k := slotOf o
  if isW1c k then writeW1c o width v s
  else if inArray k (Off.msix 0) 8 64 then writeMsix o width v s
  else writeOther o width v s

/-- A host write in BAR0. -/
def barWrite (o width : Nat) (v : Dword) : BarAccess := { bar2 := false, offset := o, width := width, write := true, value := v }

/-- W1C_CLEAR: an 8-byte write to a W1C register (R592). -/
def execW1cClear (offset : Nat) (v : Dword) (s : State) : Host.Outcome State Fault Refusal :=
  hostWrite (barWrite offset 8 v) (writeReg offset 8 v) s

/-- REGISTER_WRITE: a write of 4 or 8 bytes to any register of BAR0. -/
def execRegisterWrite (offset width : Nat) (v : Dword) (s : State) : Host.Outcome State Fault Refusal :=
  hostWrite (barWrite offset width v) (writeReg offset width v) s

/-- FAB_PLAN_CHECK: a write of FAB_PLAN_CTL with CHECK = 1 runs the check of R411. -/
def execFabPlanCheck (v : Dword) (s : State) : Host.Outcome State Fault Refusal :=
  hostWrite (slotWrite Off.planCtl (v ||| 1)) (writePlanCtl (v ||| 1)) s

/-- FAB_INJECT_ARM: a write of FAB_INJECT_CTL with ARM = 1 (R436). -/
def execFabInjectArm (v : Dword) (s : State) : Host.Outcome State Fault Refusal :=
  hostWrite (slotWrite Off.fabInject (v ||| 1)) (writeFabInject (v ||| 1)) s

/-! ### What a read returns -/

/-- Logical cores placed on a tile. -/
def State.placedOn (s : State) (t : Nat) : Nat := ((List.range 68).filter (fun p => (s.ph t p).logical.isSome)).length

/-- Free spares of a tile. -/
def State.sparesOn (s : State) (t : Nat) : Nat := ((List.range 68).filter (fun p => (s.ph t p).state == .freeSpare)).length

/-- FREE reserve entries. -/
def State.reserveFree (s : State) : Nat := ((List.range reserves).filter (fun r => (s.entry (reserve0 + r)).state == .free)).length

/-- The capability word (R458). -/
def capBytes (s : State) : List Byte :=
  let uu := (List.range 4).foldl (fun n u => n + 2 ^ u * flag (s.uu u).inService) 0
  let eth := (List.range 2).foldl (fun n e => n + 2 ^ e * flag (Sparse.look (fun _ => false) s.eth.up e)) 0
  let ports := if s.fabric.noFabric then 0 else s.inService.length
  leBytes 1 1 ++ leBytes 1 (flag s.rom.grade240) ++ leBytes 1 4 ++ leBytes 1 24 ++ (List.range 4).flatMap (fun t => leBytes 1 (s.placedOn t)) ++
  (List.range 4).flatMap (fun t => leBytes 1 (s.sparesOn t)) ++ leBytes 1 ports ++ leBytes 1 eth ++ leBytes 1 uu ++ leBytes 1 0x11 ++
  leBytes 4 s.mem.usable ++ leBytes 4 s.reserveFree ++ leBytes 8 s.shape.toNat ++ leBytes 4 s.mgmt.fwVersion.toNat ++
  leBytes 1 (flag (s.host.modules == 1)) ++ leBytes 27 0

/-- Bytes 8n to 8n + 7 of a byte list as a register. -/
def dword8 (l : List Byte) (n : Nat) : Dword := BitVec.ofNat 64 (byteField l (8 * n) 8)

/-- STATE of CMP_CORE_MAP. -/
def physCode : PhysState → Nat
  | .active => 0
  | .freeSpare => 1
  | .spareCarrying => 2
  | .quarantined => 3
  | .fusedOff => 4
  | .underTest => 5

/-- CMP_CORE_MAP of tile `t`, physical core `p`. -/
def coreMapWord (t p : Nat) (s : State) : Dword :=
  let x := s.ph t p
  BitVec.ofNat 64 (physCode x.state + match x.logical with
    | some k => 2 ^ 8 * k + 2 ^ 16 * (s.placeEpochOf t k).toNat
    | none => 2 ^ 8 * 0x7F)

/-- STATE of MEM_CHAN. -/
def chanCode : ChanState → Nat
  | .inService => 0
  | .repairing => 1
  | .mappedOut => 2
  | .dead => 3
  | .degraded => 4

/-- MEM_CAPACITY. -/
def capacityWord (s : State) : Dword :=
  let out := ((List.range 384).filter (fun q => let c := (s.chan q).state; c == .mappedOut || c == .dead || c == .degraded)).length
  BitVec.ofNat 64 (s.mem.usable + 2 ^ 24 * s.reserveFree + 2 ^ 48 * min 255 out + 2 ^ 56 * min 255 s.pendingChannels.length)

/-- MEM_REPAIR_STATUS. -/
def repairWord (s : State) : Dword :=
  let m := s.mem
  let map : Nat := match m.repairs with
    | .mapOut q :: r =>
      2 ^ 2 * q + 2 ^ 12 * (m.mapOutDone % 4096) + 2 ^ 24 * ((s.logicalOn q (fun x => x == .mapped || x == .copying)).length % 4096) +
      2 ^ 36 * min 255 r.length
    | l => 2 ^ 36 * min 255 l.length
  let kind : Nat := match m.relocs with | x :: _ => flag (!x.mapOut) | [] => 0
  BitVec.ofNat 64 (flag (!m.relocs.isEmpty) + 2 * kind + map)

/-- STATE of a stripe-map entry. -/
def stripeCode : StripeState → Nat
  | .mapped => 0
  | .copying => 1
  | .free => 2
  | .spent => 3
  | .lost => 4
  | .withdrawn => 5

/-- A stripe-map entry as R285 lays it out. -/
def entryWord (e : MapEntry) : Dword :=
  BitVec.ofNat 64 (stripeCode e.state + 2 ^ 8 * locBits e.loc + match e.loc2 with | some d => 2 ^ 32 * locBits d | none => 0)

/-- MEM_CHAN. -/
def chanWord (c : Channel) : Dword :=
  BitVec.ofNat 64 (chanCode c.state + 2 ^ 8 * min 255 c.retired + 2 ^ 16 * min 65535 c.ceLast + 2 ^ 32 * min 65535 c.ue)

/-- LINK of FAB_PORT_STATUS. -/
def linkCode : Link → Nat
  | .down => 0
  | .training => 1
  | .discovery => 2
  | .up => 3
  | .failed => 4

/-- FAB_PORT_STATUS. -/
def portWord (x : Port) : Dword :=
  BitVec.ofNat 64 (linkCode x.link + 2 ^ 3 * x.plan + 2 ^ 6 * flag x.inService + 2 ^ 8 * x.partner + 2 ^ 14 * x.lanes + 2 ^ 32 * x.latency.toNat)

/-- FAB_PORT_PEER. -/
def peerWord (x : Port) : Dword :=
  match x.peer with
  | some p => BitVec.ofNat 64 (p.1.toNat + 2 ^ 32 * p.2.1.toNat + 2 ^ 48 * p.2.2.toNat)
  | none => 0

/-- PWR_STATUS. -/
def powerWord (s : State) : Dword :=
  let p := s.power
  let trim := (List.range 4).foldl (fun n t => n + 2 ^ t * flag (s.trimmed t)) 0
  BitVec.ofNat 64 (p.point + 2 ^ 3 * flag p.limiting + 2 ^ 4 * flag p.miss + 2 ^ 5 * trim + 2 ^ 16 * p.vin.toNat + 2 ^ 32 * min 65535 p.watts)

/-- PWR_TILE and PWR_STACK. -/
def thermWord (x : Therm) : Dword := BitVec.ofNat 64 (x.temp.toNat + 2 ^ 16 * x.max.toNat + 2 ^ 32 * x.state)

/-- The log slot that MGT_LOG_INDEX selects: 0 to 65,535 pinned, the rest the ring (R384). -/
def State.logSlot (s : State) : Option Record :=
  let n := bits (s.reg Off.logIndex) 0 20
  if n < pinnedSize then Sparse.look (fun _ => none) s.mram.pinned n else Sparse.look (fun _ => none) s.mram.ring (n - pinnedSize)

/-- The ledger entry that PWR_LEDGER_INDEX selects. -/
def State.ledgerSlot (s : State) : Option Ledger := Sparse.look (fun _ => none) s.power.ledger (bits (s.reg Off.ledgerIndex) 0 8)

/-- HIF_RING_STATUS. -/
def ringWord (r : Nat) (s : State) : Dword :=
  let q := s.sq r
  let c := s.cq r
  let st : Nat := match q.state with | .disabled => 0 | .enabled => 1 | .halted => 2 | .noVersion => 3 | .badConfig => 4
  BitVec.ofNat 64 (st + 2 ^ 8 * q.version.toNat + 2 ^ 16 * q.head.toNat + 2 ^ 32 * c.tail + 2 ^ 48 * flag c.phase)

/-- The MSI-X table and the pending-bit array. -/
def msixWord (o : Nat) (s : State) : Dword :=
  if o = Off.pba then BitVec.ofNat 64 ((List.range 32).foldl (fun n v => n + 2 ^ v * flag (s.vec v).pending) 0)
  else
    let x := s.vec ((o - Off.msix 0) / 16)
    if o % 16 = 0 then x.addr else BitVec.ofNat 64 (x.data.toNat + 2 ^ 32 * flag x.masked)

/-- Is entry `k` of a status array that of an active logical core: one that the grade has (R145, R189, R226). -/
def statusLive (k : Nat) (s : State) : Bool := decide (k % 64 < activeCores s.rom)

/-- Registers of the HIF_, CMP_ and MEM_ blocks that state other than the register file holds. -/
def readLow (o : Nat) (s : State) : Option Dword :=
  if inArray o Off.cap 8 8 then some (dword8 (capBytes s) ((o - Off.cap) / 8))
  else if inArray o (Off.ringStatus 0) 0x40 16 then some (ringWord ((o - Off.ringStatus 0) / 0x40) s)
  else if inArray o (Off.msix 0) 8 64 || o == Off.pba then some (msixWord o s)
  else if inArray o (Off.mxStatus 0) 8 256 && !statusLive ((o - Off.mxStatus 0) / 8) s then some 0
  else if inArray o (Off.vxStatus 0) 8 256 && !statusLive ((o - Off.vxStatus 0) / 8) s then some 0
  else if inArray o (Off.qzStatus 0 0) 8 512 && !statusLive ((o - Off.qzStatus 0 0) / 16) s then some 0
  else if inArray o Off.coreMap 8 272 then some (coreMapWord ((o - Off.coreMap) / 8 / 68) ((o - Off.coreMap) / 8 % 68) s)
  else if o = Off.capacity then some (capacityWord s)
  else if o = Off.repairStatus then some (repairWord s)
  else if o = Off.mapData then
    (let n := bits (s.reg Off.mapIndex) 0 24
     some (if n ≤ 589823 then entryWord (s.entry n) else 0))
  else if inArray o Off.memChan 8 384 then some (chanWord (s.chan ((o - Off.memChan) / 8)))
  else none

/-- Registers of the FAB_ and PWR_ blocks that state other than the register file holds. -/
def readMid (o : Nat) (s : State) : Option Dword :=
  if inArray o Off.portStatus 8 48 then some (portWord (s.port ((o - Off.portStatus) / 8)))
  else if inArray o Off.portPeer 8 48 then some (peerWord (s.port ((o - Off.portPeer) / 8)))
  else if o = Off.timeStatus then some (BitVec.ofNat 64 (flag s.clock.aligned + 2 * flag s.clock.onAlt + 2 ^ 32 * s.clock.offset.toNat))
  else if o = Off.pwrStatus then some (powerWord s)
  else if o = Off.energy then some s.power.energy
  else if o = Off.floor then some (BitVec.ofNat 64 (s.power.floorRatio.toNat + 2 ^ 16 * floorFj))
  else if o = Off.time then some s.now
  else if o = Off.ledgerIndex then
    some (BitVec.ofNat 64 (bits (s.reg o) 0 8 + 2 ^ 8 * s.power.ledgerNext + 2 ^ 16 * flag s.power.ledgerWrapped))
  else if inArray o Off.ledgerData 8 16 then
    some (match s.ledgerSlot with | some l => dword8 (ledgerBytes l) ((o - Off.ledgerData) / 8) | none => 0)
  else if inArray o Off.pwrTile 8 4 then some (thermWord (s.tileT ((o - Off.pwrTile) / 8)))
  else if inArray o Off.pwrStack 8 24 then some (thermWord (s.stackT ((o - Off.pwrStack) / 8)))
  else none

/-- The registers of a monitor. -/
def monitorWord (o : Nat) (s : State) : Dword :=
  let x := s.monitor ((o - Off.monCfg 0) / 0x100)
  let i := o % 0x100
  if i = 0 then s.reg o
  else if i = 8 then x.min.setWidth 64
  else if i = 0x10 then x.max.setWidth 64
  else if i = 0x18 then x.last.setWidth 64
  else
    let j := (i - 0x40) / 8
    BitVec.ofNat 64 ((nth x.binList (2 * j) 0).toNat + 2 ^ 32 * (nth x.binList (2 * j + 1) 0).toNat)

/-- Registers of the MGT_, MON_ and SEC_ blocks that state other than the register file holds. -/
def readHigh (o : Nat) (s : State) : Option Dword :=
  let m := s.mgmt
  if o = Off.bootStatus then
    some (BitVec.ofNat 64 (flag (m.boot == .ready) + 2 * flag (m.boot == .recovery) + 4 * flag m.slotB + 8 * flag m.halted))
  else if o = Off.turnStatus then some (BitVec.ofNat 64 (m.turns.toNat + 2 ^ 32 * flag m.late + 2 ^ 33 * flag m.cancelled))
  else if o = Off.load then some s.loadWord
  else if o = Off.logStatus then
    some (BitVec.ofNat 64 (s.mram.pinnedUsed + 2 ^ 20 * s.mram.ringNext + 2 ^ 40 * flag s.mram.ringWrapped))
  else if o = Off.logSeq then some (s.mram.nextSeq.setWidth 64)
  else if inArray o Off.logData 8 8 then some (dword8 (slotBytes s.logSlot) ((o - Off.logData) / 8))
  else if o = Off.osdan then some 0x101020001
  else if decide (Off.monCfg 0 ≤ o) && decide (o < Off.monCfg 64) then some (monitorWord o s)
  else if o = Off.secId then some s.rom.serial
  else if o = Off.secSvn then some (BitVec.ofNat 64 (s.rom.minSvn.toNat + 2 ^ 32 * m.runSvn.toNat))
  else if o = Off.fwCtl then some (BitVec.ofNat 64 (16 * s.sec.fwStatus + 256 * flag s.rom.nextSlot))
  else if o = Off.attCtl then some (BitVec.ofNat 64 (2 * s.sec.attStatus))
  else if inArray o Off.idKey 8 4 then some (dword8 (leBytes 32 s.sec.idKey.toNat) ((o - Off.idKey) / 8))
  else if inArray o Off.meas 8 32 then
    some (dword8 (leBytes 32 (s.measure ((o - Off.meas) / 32)).toNat) ((o - Off.meas) / 8 % 4))
  else none

/-- What an 8-byte host read of an implemented slot of BAR0 returns (R8, R582, R588 to R594). -/
def readSlot (o : Nat) (s : State) : Dword :=
  if isActiveWindow o then s.act (o - activeWindow)
  else match readLow o s with
    | some v => v
    | none => match readMid o s with
      | some v => v
      | none => match readHigh o s with
        | some v => v
        | none => s.reg o

/-- What a read of a doorbell returns: the last value written (R459). -/
def readBell (r : Nat) (cq : Bool) (s : State) : Word := if cq then (s.cq r).head else (s.sq r).tail

end Sys2Proof.Machine
end

