-- ==== Sys2Proof/Machine/Session.lean ====
section
/-! DEFINITION. Sessions, message buffers, rank tables and aborts (R478 to R481), and the Ethernet ports (R437 to R440). -/

namespace Sys2Proof.Machine

/-! ### Descriptors -/

/-- SESSION_OPEN: opens a session whose window lies in the scratch part, at most 64 at a time (R467, R478). -/
def execSessionOpen (r : Fin 16) (s : State) : Host.Outcome State Fault Refusal :=
  atHead r 9 (fun d s =>
    let id := BitVec.ofNat 32 (bits d.raw 64 32)
    let base : Dword := BitVec.ofNat 64 (bits d.raw 128 64)
    let len := bits d.raw 192 64
    let x : Session := { id := id, port := bits d.raw 96 8, base := base, len := BitVec.ofNat 64 len,
                         peer := BitVec.ofNat 128 (bits d.raw 256 128), refusedIn := none }
    if len = 0 then completePlain r.val d 0x12 s
    else if !(s.inCapacity base.toNat len && s.inScratch base.toNat len) then completeAddress r.val d base s
    else if 64 ≤ s.eth.sessions.length ∨ s.eth.sessions.any (fun y => y.id == id) then completePlain r.val d 0x18 s
    else completePlain r.val d 0 { s with eth := { s.eth with sessions := s.eth.sessions ++ [x] } }) s

/-- SESSION_CLOSE: closes an open session (R478). -/
def execSessionClose (r : Fin 16) (s : State) : Host.Outcome State Fault Refusal :=
  atHead r 10 (fun d s =>
    let id := BitVec.ofNat 32 (bits d.raw 64 32)
    if s.eth.sessions.any (fun y => y.id == id) then
      completePlain r.val d 0 { s with eth := { s.eth with sessions := s.eth.sessions.filter (fun y => y.id != id) } }
    else completePlain r.val d 0x18 s) s

/-- MESSAGE_BUFFER: joins the pool of at most 256 buffers without holding back its ring (R467, R479). -/
def execMessageBuffer (r : Fin 16) (s : State) : Host.Outcome State Fault Refusal :=
  atHead r 11 (fun d s =>
    if bits d.raw 128 32 < 8224 then completePlain r.val d 0x12 s
    else if 256 ≤ s.host.pool.length then s
    else
      let q := s.sq r.val
      let s := s.setSq r.val { q with fetched := q.fetched.tail }
      advance r.val q.fetched.length { s with host := { s.host with pool := s.host.pool ++ [(r, d)] } }) s

/-- The entries of a rank table: device id and placement epoch (R480). -/
def rankEntries (bs : List Byte) : List (BitVec 16 × BitVec 16) :=
  (List.range (bs.length / 8)).map (fun i => (BitVec.ofNat 16 (byteField bs (8 * i) 2), BitVec.ofNat 16 (byteField bs (8 * i + 2) 2)))

/-- RANK_TABLE: writes the shadow table, or both while no program is loaded; held while the shadow set is frozen or being refilled (R467, R480, R585). -/
def execRankTable (r : Fin 16) (read : HostRead) (s : State) : Host.Outcome State Fault Refusal :=
  if s.frozen || s.mgmt.refilling then .next s
  else atHead r 12 (fun d s =>
    let n := bits d.raw 128 32
    if n = 0 then completePlain r.val d 0x12 s
    else match read with
      | .error e => completeHost r.val d false e s
      | .timeout e => completeHost r.val d true e s
      | .ok bs =>
        if bs.length = 8 * n then
          let l := rankEntries bs
          let s := { s with fabric := { s.fabric with rankShadow := l, rankActive := if s.program.isNone then l else s.fabric.rankActive } }
          completePlain r.val d 0 s
        else s) s

/-- ABORT: aborts with reason 3 every collective of the running step when STEP names it; otherwise changes nothing (R481). -/
def execAbort (r : Fin 16) (s : State) : Host.Outcome State Fault Refusal :=
  atHead r 13 (fun d s =>
    match s.step with
    | some x =>
      if x.number.toNat = bits d.raw 96 32 then completePlain r.val d 0 (abortAll 3 (s.fabric.colls.map (fun c => c.spec.num)) s)
      else completePlain r.val d 0 s
    | none => completePlain r.val d 0 s) s

/-! ### Bulk frames (R438 to R440) -/

/-- Is an Ethernet port up. -/
def State.ethUp (s : State) (e : Nat) : Bool := Sparse.look (fun _ => false) s.eth.up e

/-- The session of a frame: open on the port, and admitting its sender (R465, R478). -/
def sessionOf (e : Nat) (f : BulkFrame) (s : State) : Option Session :=
  s.eth.sessions.find? (fun x => x.id == f.session && x.port == e && (x.peer == 0 || x.peer == f.peer))

/-- Answers a frame with a frame of a type, with its session, OFFSET and SEQ. -/
def answer (e : Nat) (f : BulkFrame) (type reason : Byte) (payload : List Byte) (s : State) : State :=
  s.emit (.eth e f.peer type f.session f.offset f.seq reason payload)

/-- Refuses a frame of a known session: a NACK, and 0x3050 once per session per step (R439). -/
def refuseFrame (e : Nat) (f : BulkFrame) (reason : Byte) (x : Session) (s : State) : State :=
  let s := answer e f 6 reason [] s
  if x.refusedIn == some s.stepNo then s
  else
    let s := { s with eth := { s.eth with sessions := s.eth.sessions.map (fun y => if y.id == x.id then { y with refusedIn := some s.stepNo } else y) } }
    raise { code := 0x3050, unit := unitId 6 0 e } s

/-- A frame of an unknown session: counted, and answered at most once per source in 1 ms (R439). -/
def unknownFrame (e : Nat) (f : BulkFrame) (s : State) : State :=
  let s := s.count Off.fabCount 8
  let recent := s.eth.nacks.any (fun x => x.1 == f.peer && decide (s.now.toNat < x.2.toNat + 1000000))
  if recent then s
  else
    let s := { s with eth := { s.eth with nacks := s.eth.nacks.filter (fun x => x.1 != f.peer) ++ [(f.peer, s.now)] } }
    answer e f 6 3 [] s

/-- Is a frame malformed: its fixed fields, its length, or a window offset that is not whole words (R276, R438). -/
def frameBad (f : BulkFrame) (x : Session) : Bool :=
  !f.wellFormed || f.length.toNat % 4 != 0 || decide (8192 < f.length.toNat) ||
  (f.type != 3 && f.payload.length != f.length.toNat) || (x.base.toNat + f.offset.toNat) % 4 != 0

/-- Acts on a frame of a known session that is well formed and passes its CRC. -/
def onFrame (e : Nat) (f : BulkFrame) (needWindow : Bool) (act : Session → State → State) (s : State) : State :=
  if !s.ethUp e then s
  else match sessionOf e f s with
    | none => unknownFrame e f s
    | some x =>
      if frameBad f x then refuseFrame e f 4 x s
      else if needWindow && decide (x.len.toNat < f.offset.toNat + f.length.toNat) then refuseFrame e f 1 x s
      else if f.crc != crc32c f.payload then refuseFrame e f 2 x s
      else act x s

/-- ETH_BULK_WRITE: a WRITE within its window is written and acknowledged; a frame of any type that the device does not take is malformed (R439). -/
def execEthBulkWrite (e : Fin 2) (f : BulkFrame) (s : State) : Host.Outcome State Fault Refusal :=
  if f.type = 3 ∨ f.type = 5 then .next s
  else .next (onFrame e.val f true (fun x s =>
    if f.type = 1 then
      let s := hostStore (x.base + f.offset) f.payload s
      answer e.val f 2 0 [] (s.count Off.fabCount 9 f.payload.length)
    else refuseFrame e.val f 4 x s) s)

/-- ETH_READ_REQ: answered with the requested bytes of the window (R440). -/
def execEthReadReq (e : Fin 2) (x : FrameRead) (s : State) : Host.Outcome State Fault Refusal :=
  let f := x.frame
  let errs := x.errs
  if f.type = 3 then
    .next (onFrame e.val f true (fun x s =>
      let b := hostLoad (x.base + f.offset) f.length.toNat errs s
      answer e.val f 4 0 b.1 b.2) s)
  else .next s

/-- The 32-byte bulk header of a frame (R438). -/
def bulkHeader (f : BulkFrame) : List Byte :=
  leBytes 2 0x5742 ++ [1, f.type] ++ leBytes 4 f.session.toNat ++ leBytes 8 f.offset.toNat ++ leBytes 4 f.length.toNat ++
  leBytes 4 f.seq.toNat ++ leBytes 4 f.crc.toNat ++ leBytes 4 0

/-- Fills the oldest pooled buffer and completes its descriptor with a message entry; without a buffer the frame is dropped and counted (R479, R487). -/
def deliverMessage (f : BulkFrame) (s : State) : State :=
  match s.host.pool with
  | [] => s.count Off.hifCount 4
  | (r, d) :: rest =>
    let data := bulkHeader f ++ f.payload
    let s := { s with host := { s.host with pool := rest } }
    let s := s.emit (.host (BitVec.ofNat 64 (bits d.raw 64 64)) data)
    let x := { descEntry r.val d 0 noSeq s with kind := 3, detail := BitVec.ofNat 32 data.length }
    (cqPost (s.cqOf r.val) x s).count Off.hifCount 0

/-- ETH_MESSAGE: a MESSAGE frame goes to the oldest pooled buffer (R440, R479). -/
def execEthMessage (e : Fin 2) (f : BulkFrame) (s : State) : Host.Outcome State Fault Refusal :=
  if f.type = 5 then .next (onFrame e.val f false (fun _ s => deliverMessage f (s.count Off.fabCount 9 f.payload.length)) s) else .next s

/-- ETH_FRAME_DISCARD: a frame that is no accepted bulk frame is discarded and counted (R437). -/
def execEthFrameDiscard (e : Fin 2) (s : State) : Host.Outcome State Fault Refusal :=
  if s.ethUp e.val then .next (s.count Off.fabCount 8) else .next s

/-- Sets whether an Ethernet port is up. -/
def setEthUp (e : Nat) (b : Bool) (s : State) : State :=
  { s with eth := { s.eth with up := Sparse.store (fun _ => false) s.eth.up e b } }

/-- ETHERNET_PORT_UP: the link of an enabled port has trained (R437, R554). -/
def execEthernetPortUp (e : Fin 2) (s : State) : Host.Outcome State Fault Refusal :=
  if bit (s.inJob (Off.ethCtl e.val)) 0 && s.mgmt.boot == .ready then .next (setEthUp e.val true s) else .next s

/-- ETHERNET_PORT_DOWN: a port loses its link. -/
def execEthernetPortDown (e : Fin 2) (s : State) : Host.Outcome State Fault Refusal := .next (setEthUp e.val false s)

end Sys2Proof.Machine
end

