-- ==== Sys2Proof/Machine/Stream.lean ====
section
/-! DEFINITION. The stream engine's commands: reads and writes of the stacks (R286 to R303), remote reads and the cache
part (R293 to R296), and layout copies (R329 to R331). -/

namespace Sys2Proof.Machine

/-- The stream command of a core that is still to be carried out, when its body is one of those wanted. -/
def streamWork (c : CoreRef) (want : Body → Bool) (s : State) : Option Running :=
  match (s.core c).run .stream with
  | some r => if !r.done && want r.q.cmd.body then some r else none
  | none => none

/-- Is the destination of a command, named by device address, suppressed: the region of a core window that its operand names failed its check (R48, R49). -/
def destSuppressed (r : Running) (a : Dword) (win : Option RegionOp) : Bool :=
  match addrOf a, win with
  | .window d _ _, some o => suppressed r d o
  | _, _ => false

/-! ### Reading and writing the stacks -/

/-- One repetition of a read of the stacks or of a core window into a region. -/
def readOnce (c : CoreRef) (r : Running) (a : Dword) (o : RegionOp) (n : Nat) (errs : ReadErrs) (s : State) (k : Nat) : State :=
  let s := beginReads c .stream r errs k s
  let data := devBytes c.tile.val (a + BitVec.ofNat 64 (advanceOf r.q.cmd k 0)) n s
  storeOp c r (moveOp o (advanceOf r.q.cmd k 1)) 0 data s

/-- STACK_READ: a stream command reads the stacks, or a core window, into a region; every word is delivered, what its codeword or its path shows is counted and raised (R286 to R303). -/
def execStackRead (c : CoreRef) (x : PathErrs) (s : State) : Host.Outcome State Fault Refusal :=
  let path := x.path
  let errs := x.errs
  match streamWork c (fun b => match b with | .stackRead a _ _ _ => !bit a 63 | _ => false) s with
  | some r =>
    (match r.q.cmd.body with
     | .stackRead a _ o n => .next (finish c .stream ((List.range (runsOf r.q.cmd)).foldl (readOnce c r a o n errs) (corePath c .stream path s)))
     | _ => .next s)
  | none => .next s

/-- One repetition of a write of a region's bytes to the stacks or to a core window. -/
def writeOnce (c : CoreRef) (r : Running) (o : RegionOp) (a : Dword) (win : Option RegionOp) (n : Nat) (s : State) (k : Nat) : State :=
  let s := beginReads c .stream r noErrs k s
  let data := (s.core c).opBytes (moveOp o (advanceOf r.q.cmd k 0)) 0 n
  if destSuppressed r a win then s else devStore (.engine c .stream) c.tile.val (a + BitVec.ofNat 64 (advanceOf r.q.cmd k 1)) data s

/-- STACK_WRITE: a stream command writes whole aligned words to the stacks, or bytes to a core window (R276, R287, R288). -/
def execStackWrite (x : CoreRun) (s : State) : Host.Outcome State Fault Refusal :=
  let c := x.core
  let path := x.path
  match streamWork c (fun b => match b with | .stackWrite _ _ _ _ => true | _ => false) s with
  | some r =>
    (match r.q.cmd.body with
     | .stackWrite o a win n => .next (finish c .stream ((List.range (runsOf r.q.cmd)).foldl (writeOnce c r o a win n) (corePath c .stream path s)))
     | _ => .next s)
  | none => .next s

/-! ### The cache part (R293 to R296) -/

/-- Bytes of a cache line. -/
def lineBytes : Nat := 32768

/-- Does the loaded program run in deterministic mode (R67). -/
def State.deterministic (s : State) : Bool :=
  match s.program with | some p => !p.image.marks.contains .value | none => true

/-- Number of sets of the cache part. -/
def State.cacheSets (s : State) : Nat := s.llr.2.2 * stripeBytes / (8 * lineBytes)

/-- Is the cache part in use (MEM_LLR_CTL.CACHE_EN, R294, R296). -/
def State.cacheOn (s : State) : Bool := s.mem.llrOn && bit (s.inJob Off.llrCtl) 1 && !s.deterministic && decide (0 < s.cacheSets)

/-- Address in the stacks of a way of a set. -/
def State.wayAddr (s : State) (set way : Nat) : Nat := (s.llr.1 + s.llr.2.1) * stripeBytes + (set * 8 + way) * lineBytes

/-- Set of a line (R293). -/
def State.lineSet (s : State) (line : Dword) : Nat := line.toNat / lineBytes % s.cacheSets

/-- The line that holds a remote byte. -/
def lineOf (a : Dword) : Dword := BitVec.ofNat 64 (a.toNat / lineBytes * lineBytes)

/-- The lines that a read touches. -/
def linesTouched (a : Dword) (n : Nat) : List Dword :=
  if n = 0 then []
  else (List.range ((a.toNat + n - 1) / lineBytes - a.toNat / lineBytes + 1)).map (fun i => lineOf a + BitVec.ofNat 64 (lineBytes * i))

/-- The way that holds a line. -/
def State.lineWay (s : State) (line : Dword) : Option Nat := (s.mem.lines.find? (fun x => x.2.1 == line)).map (fun x => x.2.2)

/-- The way that a new line of a set takes: a free one, else that of the least recently used line (R293). -/
def State.victim (s : State) (set : Nat) : Nat :=
  let used := (s.mem.lines.filter (fun x => x.1 == set))
  match (List.range 8).find? (fun w => !used.any (fun x => x.2.2 == w)) with
  | some w => w
  | none => match used with | x :: _ => x.2.2 | [] => 0

/-- Makes a line the most recently used. -/
def touchLine (line : Dword) (s : State) : State :=
  match s.mem.lines.find? (fun x => x.2.1 == line) with
  | some x => { s with mem := { s.mem with lines := s.mem.lines.filter (fun y => y.2.1 != line) ++ [x] } }
  | none => s

/-! ### Remote reads (R275, R294, R296) -/

/-- Sends a remote-read request and answers its number: COLL names the request, the payload the bytes wanted and where they go (log 26). -/
def requestRemote (a : Dword) (n : Nat) (dst : Dword) (s : State) : BitVec 32 × State :=
  let num := 0x80000000#32 ||| s.fabric.requests
  let s := { s with fabric := { s.fabric with requests := s.fabric.requests + 1 } }
  (num, sendMsg (BitVec.ofNat 16 (bits a 47 16)) false
    { op := 5, version := 1, placeEpoch := 0, coll := num, chunk := 0, length := 0, address := BitVec.ofNat 64 (bits a 0 47),
      step := s.stepNo, srcRank := 0 } (leBytes 4 n ++ leBytes 8 dst.toNat) s)

/-- Requests the lines of a range that are neither held nor on their way. -/
def requestLines (a : Dword) (n : Nat) (s : State) : State :=
  (linesTouched a n).foldl (fun s l =>
    if (s.lineWay l).isSome || s.mem.fetching.any (fun x => x.1 == l) then s
    else
      let r := requestRemote l lineBytes (BitVec.ofNat 64 (s.wayAddr (s.lineSet l) (s.victim (s.lineSet l)))) s
      { r.2 with mem := { r.2.mem with fetching := r.2.mem.fetching ++ [(l, r.1)] } }) s

/-- The remote ranges that a stream command reads, over its repetitions, in order (R275, R331). -/
def remoteSpans (r : Running) : List (Dword × Nat) :=
  r.accesses.flatMap (fun a =>
    match a.loc with
    | .stack x => if a.reads && bit x 63 then a.spans.map (fun p => (x + BitVec.ofNat 64 p.1, p.2)) else []
    | .region _ => [])

/-- Is the body a read of remote addresses into a region. -/
def readsRemote : Body → Bool
  | .remoteRead a _ _ => bit a 63
  | .stackRead a _ _ _ => bit a 63
  | _ => false

/-- Is a running command one that reads a remote address: a stream read, or a layout copy with a remote source (R275, R331). -/
def remoteCommand (r : Running) : Bool :=
  readsRemote r.q.cmd.body || (match r.q.cmd.body with | .layout _ _ _ => bit (copyDesc r.copy).src 63 | _ => false)

/-- Writes what a remote read gathered to the region that each repetition names. -/
def landRead (c : CoreRef) (r : Running) (w : RemoteRead) (a : Dword) (o : RegionOp) (n : Nat) (s : State) : State :=
  (List.range (runsOf r.q.cmd)).foldl (fun s k =>
    let b := a + BitVec.ofNat 64 (advanceOf r.q.cmd k 0)
    storeOp c r (moveOp o (advanceOf r.q.cmd k 1)) 0 ((List.range n).map (fun i => w.byteAt (b + BitVec.ofNat 64 i))) s) s

/-- Writes what a layout copy makes of its source, unless the check of its destination suppresses it. -/
def landCopy (c : CoreRef) (r : Running) (dst : Option RegionOp) (rd : Nat → Byte) (s : State) : State :=
  let d := copyDesc r.copy
  copyRun (.engine c .stream) c.tile.val d rd (!destSuppressed r d.dst dst) s

/-- Carries out a command that reads a remote address once all of its bytes have come. -/
def finishRemote (c : CoreRef) (s : State) : State :=
  match (s.core c).remote, streamWork c (fun _ => true) s with
  | some w, some r =>
    if w.complete then
      let s := match r.q.cmd.body with
        | .remoteRead a o n => landRead c r w a o n s
        | .stackRead a _ o n => landRead c r w a o n s
        | .layout _ _ dst => landCopy c r dst (fun i => w.byteAt ((copyDesc r.copy).src + BitVec.ofNat 64 i)) s
        | _ => s
      finish c .stream (s.modCore c (fun k => { k with remote := none }))
    else s
  | _, _ => s

/-- The part of a remote range that a line holds: offset in the range, and length. -/
def lineOverlap (line : Dword) (p : RemotePart) : Option (Nat × Nat) :=
  let lo := max line.toNat p.addr.toNat
  let hi := min (line.toNat + lineBytes) (p.addr.toNat + p.len)
  if hi ≤ lo then none else some (lo - p.addr.toNat, hi - lo)

/-- Where the cache part holds the part of a remote range that lies in a line. -/
def State.lineRange (s : State) (line : Dword) (p : RemotePart) : List (Nat × Nat) :=
  match lineOverlap line p, s.lineWay line with
  | some x, some way => [(s.wayAddr (s.lineSet line) way + (p.addr.toNat + x.1) % lineBytes, x.2)]
  | _, _ => []

/-- Serves what a held line holds of one range of a waiting read: it counts, and becomes the most recently used line (R293, R294, R321). -/
def servePart (c : CoreRef) (line : Dword) (x : State × List RemotePart) (p : RemotePart) : State × List RemotePart :=
  match lineOverlap line p, x.1.lineRange line p with
  | some o, [r] =>
    if p.got.any (fun g => g.1 == o.1) then (x.1, x.2 ++ [p])
    else
      let t := c.tile.val
      let s := readEffects (.engine c .stream) t [r] [] (injectStack t [r] x.1)
      ((touchLine line s).count Off.memCount 6, x.2 ++ [{ p with got := p.got ++ [(o.1, s.stackBytes t r.1 r.2)] }])
  | _, _ => (x.1, x.2 ++ [p])

/-- Serves every range of a core's waiting read that a held line holds. -/
def serveLine (c : CoreRef) (line : Dword) (s : State) : State :=
  match (s.core c).remote with
  | some w =>
    if w.cached then
      let x := w.parts.foldl (servePart c line) (s, [])
      finishRemote c (x.1.modCore c (fun k => { k with remote := some { w with parts := x.2 } }))
    else s
  | none => s

/-- Puts fetched bytes into a line of the cache part (R293, R294). -/
def fillLine (line : Dword) (data : List Byte) (s : State) : State :=
  let set := s.lineSet line
  let way := s.victim set
  let s := { s with mem := { s.mem with
    lines := s.mem.lines.filter (fun x => !(x.1 == set && x.2.2 == way)) ++ [(set, line, way)]
    fetching := s.mem.fetching.filter (fun x => x.1 != line) } }
  (stackStore (.device 0 []) 4 (s.wayAddr set way) data s).count Off.memCount 7

/-- All logical cores, in order. -/
def allCores : List CoreRef := (List.finRange 4).flatMap (fun t => (List.finRange 64).map (fun k => ⟨t, k⟩))

/-- Serves every core whose read waits on a line. -/
def serveWaiting (line : Dword) (s : State) : State :=
  (s.cores.map (fun x => x.1)).foldl (fun s k => match allCores[k]? with | some c => serveLine c line s | none => s) s

/-- The destination that a command's requests name: its region, or the destination of its copy. -/
def remoteDest (c : CoreRef) (r : Running) (s : State) : Dword :=
  match r.q.cmd.body with
  | .remoteRead _ o _ => windowAddr c o.space ((s.core c).opBase o)
  | .stackRead _ _ o _ => windowAddr c o.space ((s.core c).opBase o)
  | _ => (copyDesc r.copy).dst

/-- Asks for one remote range, which the response delivers to the waiting read. -/
def requestPart (c : CoreRef) (dst : Dword) (s : State) (x : Dword × Nat) : State :=
  let q := requestRemote x.1 x.2 dst s
  q.2.modCore c (fun k => { k with remote := k.remote.map (fun w =>
    { w with parts := w.parts ++ [{ num := q.1, addr := x.1, len := x.2, got := [] }] }) })

/-- Starts the remote reads of a command: what held lines hold is served and the other lines are asked for while the cache part is in use (R294), and every range is fetched while it is not (R296). -/
def startRemote (c : CoreRef) (r : Running) (errs : ReadErrs) (s : State) : State :=
  let spans := remoteSpans r
  let empty (l : List RemotePart) (s : State) : State := s.modCore c (fun k => { k with remote := some { cached := s.cacheOn, parts := l } })
  if s.cacheOn then
    let parts := spans.map (fun x => ({ num := 0, addr := x.1, len := x.2, got := [] } : RemotePart))
    let lines := (spans.flatMap (fun x => linesTouched x.1 x.2)).eraseDups
    let held := lines.flatMap (fun l => parts.flatMap (fun p => s.lineRange l p))
    let s := pathEffects (.engine c .stream) c.tile.val (held.flatMap (fun x => pieces x.1 x.2)) errs.parity (applyFlips errs.flips s)
    let s := lines.foldl (fun s l => serveLine c l s) (empty parts s)
    spans.foldl (fun s x => requestLines x.1 x.2 s) s
  else finishRemote c (spans.foldl (requestPart c (remoteDest c r s)) (empty [] s))

/-- REMOTE_STACK_READ: a stream command's read of a remote address asks for what is missing, and is carried out when all of it has come. -/
def execRemoteStackRead (x : CoreRead) (s : State) : Host.Outcome State Fault Refusal :=
  let c := x.core
  let path := x.path
  let errs := x.errs
  match streamWork c readsRemote s with
  | some r =>
    if (s.core c).remote.isSome then .next s
    else .next (startRemote c r errs (injectPath c .stream (corePath c .stream path s)))
  | none => .next s

/-- CACHE_LINE_FETCH_DONE: a line being fetched arrives in the cache part, and the waiting reads that it completes are served. -/
def execCacheLineFetchDone (line : Dword) (data : List Byte) (s : State) : Host.Outcome State Fault Refusal :=
  if s.cacheOn && s.mem.fetching.any (fun x => x.1 == line) then .next (serveWaiting line (fillLine line data s)) else .next s

/-- Invalidates every line (R295). -/
def invalidateLines (s : State) : State := { s with mem := { s.mem with lines := [], fetching := [] } }

/-- CACHE_INVALIDATE: takes effect once no read of a remote address is under way (R295). -/
def execCacheInvalidate (c : CoreRef) (s : State) : Host.Outcome State Fault Refusal :=
  match streamWork c (fun b => match b with | .invalidate => true | _ => false) s with
  | some _ =>
    if s.cores.any (fun x => x.2.remote.isSome) then .next s
    else .next (finish c .stream (invalidateLines s))
  | none => .next s

/-- Answers a remote-read request with response messages of at most 1 MiB (R407; log 26). -/
def answerRequest (errs : ReadErrs) (m : Msg) (s : State) : Option State :=
  let n := byteField m.payload 0 4
  let dst := byteField m.payload 4 8
  let a := m.hdr.address &&& 0x7FFFFFFFFFFF
  let r := fabricRead a n (hubRead (stackRange a n) errs s)
  some ((cutMessages (n / 1048576 + 1) 0 r.1).foldl (fun s p =>
    sendMsg m.src false
      { op := 6, version := 1, placeEpoch := 0, coll := m.hdr.coll, chunk := BitVec.ofNat 32 (p.1 / 1048576), length := 0,
        address := BitVec.ofNat 64 (dst + p.1), step := m.hdr.step, srcRank := 0 } p.2 s) r.2)

/-- MSG_REMOTE_READ_REQUEST: the stacks' bytes go back to the requester. -/
def execMsgRemoteReadRequest (x : MsgRead) (s : State) : Host.Outcome State Fault Refusal :=
  let m := x.msg
  let errs := x.errs
  .next (receive false (answerRequest errs) m s)

/-- Does a core's waiting read hold the range that a response answers. -/
def wants (num : BitVec 32) (w : RemoteRead) : Bool := !w.cached && w.parts.any (fun p => p.num == num)

/-- Adds a response to the read of a core that waits for it. -/
def coreResponse (c : CoreRef) (m : Msg) (s : State) : State :=
  let add (p : RemotePart) : RemotePart := if p.num == m.hdr.coll then { p with got := p.got ++ [(1048576 * m.hdr.chunk.toNat, m.payload)] } else p
  finishRemote c (s.modCore c (fun k => { k with remote := k.remote.map (fun w => { w with parts := w.parts.map add }) }))

/-- Delivers a remote-read response to the cache line or the core that asked for it. -/
def deliver (m : Msg) (s : State) : Option State :=
  match s.mem.fetching.find? (fun x => x.2 == m.hdr.coll) with
  | some x => some (serveWaiting x.1 (fillLine x.1 m.payload s))
  | none =>
    match allCores.find? (fun c => match (s.core c).remote with | some w => wants m.hdr.coll w | none => false) with
    | some c => some (coreResponse c m s)
    | none => some s

/-- MSG_REMOTE_READ_RESPONSE: delivered to the waiting remote read or cache fill. -/
def execMsgRemoteReadResponse (m : Msg) (s : State) : Host.Outcome State Fault Refusal := .next (receive false deliver m s)

/-! ### Copies -/

/-- One repetition of a copy between two regions of the core. -/
def copyOnce (c : CoreRef) (r : Running) (src dst : RegionOp) (n : Nat) (s : State) (k : Nat) : State :=
  let s := beginReads c .stream r noErrs k s
  let data := (s.core c).opBytes (moveOp src (advanceOf r.q.cmd k 0)) 0 n
  storeOp c r (moveOp dst (advanceOf r.q.cmd k 1)) 0 data s

/-- LAYOUT_COPY_COMMAND: the copy of a descriptor, whose source may be remote, or a copy between two regions of the core. -/
def execLayoutCopyCommand (x : CoreRead) (s : State) : Host.Outcome State Fault Refusal :=
  let c := x.core
  let path := x.path
  let errs := x.errs
  match streamWork c (fun b => match b with | .layout _ _ _ => true | .copy _ _ _ => true | _ => false) s with
  | none => .next s
  | some r =>
    match r.q.cmd.body with
    | .copy src dst n => .next (finish c .stream ((List.range (runsOf r.q.cmd)).foldl (copyOnce c r src dst n) (corePath c .stream path s)))
    | .layout _ _ dst =>
      if remoteCommand r then
        if (s.core c).remote.isSome then .next s
        else .next (startRemote c r errs (injectPath c .stream (corePath c .stream path s)))
      else
        let before := beginReads c .stream r errs 0 (corePath c .stream path s)
        .next (finish c .stream (landCopy c r dst (fun i => devByte c.tile.val ((copyDesc r.copy).src + BitVec.ofNat 64 i) before) before))
    | _ => .next s

end Sys2Proof.Machine
end

