-- ==== Sys2Proof/Machine/Dispatch.lean ====
section
/-! DEFINITION. One arm per command: a direct call of its meaning. -/

namespace Sys2Proof.Machine

/-- The effect of a command on everything but the queue. -/
def exec (i : Instr) (s : State) : Host.Outcome State Fault Refusal :=
  match i with
  | .pushCommand c p => Sys2Proof.Machine.execPushCommand c p s
  | .pushResume c => Sys2Proof.Machine.execPushResume c s
  | .engineBeginCommand u => Sys2Proof.Machine.execEngineBeginCommand u s
  | .epochRelease c e operand => Sys2Proof.Machine.execEpochRelease c e operand s
  | .commandComplete u sigDiff => Sys2Proof.Machine.execCommandComplete u sigDiff s
  | .tokenTimeout w => Sys2Proof.Machine.execTokenTimeout w s
  | .matrixProduct c x => Sys2Proof.Machine.execMatrixProduct c x s
  | .exactModeProduct c x => Sys2Proof.Machine.execExactModeProduct c x s
  | .saffronSidePass c x => Sys2Proof.Machine.execSaffronSidePass c x s
  | .streamQuantizeWrite x => Sys2Proof.Machine.execStreamQuantizeWrite x s
  | .vectorCopyConvert c up => Sys2Proof.Machine.execVectorCopyConvert c up s
  | .vectorBinary c up => Sys2Proof.Machine.execVectorBinary c up s
  | .vectorMinMax c up => Sys2Proof.Machine.execVectorMinMax c up s
  | .vectorCompare c up => Sys2Proof.Machine.execVectorCompare c up s
  | .vectorSelect c up => Sys2Proof.Machine.execVectorSelect c up s
  | .vectorFma c up => Sys2Proof.Machine.execVectorFma c up s
  | .vectorDivideRoot c up => Sys2Proof.Machine.execVectorDivideRoot c up s
  | .tableFunction c up => Sys2Proof.Machine.execTableFunction c up s
  | .tableFunctionTimesSource c up => Sys2Proof.Machine.execTableFunctionTimesSource c up s
  | .rowReduction c up => Sys2Proof.Machine.execRowReduction c up s
  | .draw c up => Sys2Proof.Machine.execDraw c up s
  | .operandCacheFill c up => Sys2Proof.Machine.execOperandCacheFill c up s
  | .checkSlot c up => Sys2Proof.Machine.execCheckSlot c up s
  | .firmwareCheckInsert c position up => Sys2Proof.Machine.execFirmwareCheckInsert c position up s
  | .stackRead c x => Sys2Proof.Machine.execStackRead c x s
  | .stackWrite x => Sys2Proof.Machine.execStackWrite x s
  | .remoteStackRead x => Sys2Proof.Machine.execRemoteStackRead x s
  | .cacheLineFetchDone line data => Sys2Proof.Machine.execCacheLineFetchDone line data s
  | .cacheInvalidate c => Sys2Proof.Machine.execCacheInvalidate c s
  | .layoutCopyCommand x => Sys2Proof.Machine.execLayoutCopyCommand x s
  | .uuNorm x => Sys2Proof.Machine.execUuNorm x s
  | .normDecision t sum => Sys2Proof.Machine.execNormDecision t sum s
  | .uuApply t x again => Sys2Proof.Machine.execUuApply t x again s
  | .uuEmitBackwardCopy x => Sys2Proof.Machine.execUuEmitBackwardCopy x s
  | .uuEmitResidual x => Sys2Proof.Machine.execUuEmitResidual x s
  | .bucketLaunch => Sys2Proof.Machine.execBucketLaunch s
  | .collectiveStart k => Sys2Proof.Machine.execCollectiveStart k s
  | .collectiveComplete num => Sys2Proof.Machine.execCollectiveComplete num s
  | .flitReceive p f lanes => Sys2Proof.Machine.execFlitReceive p f lanes s
  | .nackReceive p ack => Sys2Proof.Machine.execNackReceive p ack s
  | .replayTimeout p => Sys2Proof.Machine.execReplayTimeout p s
  | .signalDetect p => Sys2Proof.Machine.execSignalDetect p s
  | .lanesLocked p lanes => Sys2Proof.Machine.execLanesLocked p lanes s
  | .trainingTimeout p => Sys2Proof.Machine.execTrainingTimeout p s
  | .linkLoss p => Sys2Proof.Machine.execLinkLoss p s
  | .discovery p switch swPort plane => Sys2Proof.Machine.execDiscovery p switch swPort plane s
  | .fabPlanCheck v => Sys2Proof.Machine.execFabPlanCheck v s
  | .timingBlockReceive p b => Sys2Proof.Machine.execTimingBlockReceive p b s
  | .timePortSilence => Sys2Proof.Machine.execTimePortSilence s
  | .timeOffsetExceeded => Sys2Proof.Machine.execTimeOffsetExceeded s
  | .msgWrite m => Sys2Proof.Machine.execMsgWrite m s
  | .msgReducePartial m => Sys2Proof.Machine.execMsgReducePartial m s
  | .msgMaxPartial m => Sys2Proof.Machine.execMsgMaxPartial m s
  | .msgTokenPost m => Sys2Proof.Machine.execMsgTokenPost m s
  | .msgRemoteReadRequest m => Sys2Proof.Machine.execMsgRemoteReadRequest m s
  | .msgRemoteReadResponse m => Sys2Proof.Machine.execMsgRemoteReadResponse m s
  | .msgAck src coll chunk step => Sys2Proof.Machine.execMsgAck src coll chunk step s
  | .messageAckTimeout dst coll chunk step => Sys2Proof.Machine.execMessageAckTimeout dst coll chunk step s
  | .probe p src counter => Sys2Proof.Machine.execProbe p src counter s
  | .probeReply src counter => Sys2Proof.Machine.execProbeReply src counter s
  | .peerSilence peer => Sys2Proof.Machine.execPeerSilence peer s
  | .probeUnanswered peer => Sys2Proof.Machine.execProbeUnanswered peer s
  | .beacon src stopped cause delay step => Sys2Proof.Machine.execBeacon src stopped cause delay step s
  | .beaconInterval delay cause => Sys2Proof.Machine.execBeaconInterval delay cause s
  | .abortControlFlit src reason coll step => Sys2Proof.Machine.execAbortControlFlit src reason coll step s
  | .collectiveDeadline num => Sys2Proof.Machine.execCollectiveDeadline num s
  | .hotStackAbortTimeout => Sys2Proof.Machine.execHotStackAbortTimeout s
  | .launch => Sys2Proof.Machine.execLaunch s
  | .fabInjectArm v => Sys2Proof.Machine.execFabInjectArm v s
  | .ethBulkWrite e f => Sys2Proof.Machine.execEthBulkWrite e f s
  | .ethReadReq e f => Sys2Proof.Machine.execEthReadReq e f s
  | .ethMessage e f => Sys2Proof.Machine.execEthMessage e f s
  | .ethFrameDiscard e => Sys2Proof.Machine.execEthFrameDiscard e s
  | .sqTail r v => Sys2Proof.Machine.execSqTail r v s
  | .cqHead r v => Sys2Proof.Machine.execCqHead r v s
  | .doorbellPairWrite r v => Sys2Proof.Machine.execDoorbellPairWrite r v s
  | .sqEnable r v => Sys2Proof.Machine.execSqEnable r v s
  | .sqDisable r v => Sys2Proof.Machine.execSqDisable r v s
  | .cqEnable r v => Sys2Proof.Machine.execCqEnable r v s
  | .cqDisable r v => Sys2Proof.Machine.execCqDisable r v s
  | .descriptorFetch r slots => Sys2Proof.Machine.execDescriptorFetch r slots s
  | .nop r => Sys2Proof.Machine.execNop r s
  | .loadProgram r read => Sys2Proof.Machine.execLoadProgram r read s
  | .unload r => Sys2Proof.Machine.execUnload r s
  | .runStep r => Sys2Proof.Machine.execRunStep r s
  | .transfer r read => Sys2Proof.Machine.execTransfer r read s
  | .layoutCopy r c => Sys2Proof.Machine.execLayoutCopy r c s
  | .ckptSave r => Sys2Proof.Machine.execCkptSave r s
  | .ckptRestore r read => Sys2Proof.Machine.execCkptRestore r read s
  | .sanitize r => Sys2Proof.Machine.execSanitize r s
  | .gessoFillDone => Sys2Proof.Machine.execGessoFillDone s
  | .sessionOpen r => Sys2Proof.Machine.execSessionOpen r s
  | .sessionClose r => Sys2Proof.Machine.execSessionClose r s
  | .messageBuffer r => Sys2Proof.Machine.execMessageBuffer r s
  | .rankTable r read => Sys2Proof.Machine.execRankTable r read s
  | .abort r => Sys2Proof.Machine.execAbort r s
  | .violatingAccess a => Sys2Proof.Machine.execViolatingAccess a s
  | .hostRequestError r addr => Sys2Proof.Machine.execHostRequestError r addr s
  | .hostReadTimeout r addr => Sys2Proof.Machine.execHostReadTimeout r addr s
  | .ucieModuleLost m => Sys2Proof.Machine.execUcieModuleLost m s
  | .ucieLinkDown => Sys2Proof.Machine.execUcieLinkDown s
  | .ucieLinkReturn modules => Sys2Proof.Machine.execUcieLinkReturn modules s
  | .functionLevelReset => Sys2Proof.Machine.execFunctionLevelReset s
  | .d3hotEntry => Sys2Proof.Machine.execD3hotEntry s
  | .coalesceTimeout q => Sys2Proof.Machine.execCoalesceTimeout q s
  | .stepEnd m => Sys2Proof.Machine.execStepEnd m s
  | .classifyByHistory seq => Sys2Proof.Machine.execClassifyByHistory seq s
  | .confirmationTestDone t pass => Sys2Proof.Machine.execConfirmationTestDone t pass s
  | .iftDue t p => Sys2Proof.Machine.execIftDue t p s
  | .iftSegmentDone t p pass => Sys2Proof.Machine.execIftSegmentDone t p pass s
  | .cmpInjectArm v => Sys2Proof.Machine.execCmpInjectArm v s
  | .logDrain => Sys2Proof.Machine.execLogDrain s
  | .varnishRead q idx errs => Sys2Proof.Machine.execVarnishRead q idx errs s
  | .stripeRetire q idx => Sys2Proof.Machine.execStripeRetire q idx s
  | .ceWindowEnd => Sys2Proof.Machine.execCeWindowEnd s
  | .channelMapOut q => Sys2Proof.Machine.execChannelMapOut q s
  | .relocationStart => Sys2Proof.Machine.execRelocationStart s
  | .replicasAcknowledged => Sys2Proof.Machine.execReplicasAcknowledged s
  | .stripeCopyDone => Sys2Proof.Machine.execStripeCopyDone s
  | .oldStripeRelease => Sys2Proof.Machine.execOldStripeRelease s
  | .channelDead q => Sys2Proof.Machine.execChannelDead q s
  | .enableAssert => Sys2Proof.Machine.execEnableAssert s
  | .bootRomStart => Sys2Proof.Machine.execBootRomStart s
  | .firmwareImageCheck => Sys2Proof.Machine.execFirmwareImageCheck s
  | .ucieTrainingDone => Sys2Proof.Machine.execUcieTrainingDone s
  | .enableDeassert => Sys2Proof.Machine.execEnableDeassert s
  | .inputUndervoltage => Sys2Proof.Machine.execInputUndervoltage s
  | .inputRecovered => Sys2Proof.Machine.execInputRecovered s
  | .inputOvervoltage => Sys2Proof.Machine.execInputOvervoltage s
  | .railOutOfRegulation rail => Sys2Proof.Machine.execRailOutOfRegulation rail s
  | .thermalTrip x => Sys2Proof.Machine.execThermalTrip x s
  | .resetNLow => Sys2Proof.Machine.execResetNLow s
  | .resetNRelease => Sys2Proof.Machine.execResetNRelease s
  | .mgtReset v => Sys2Proof.Machine.execMgtReset v s
  | .limiterSample watts vin4mv => Sys2Proof.Machine.execLimiterSample watts vin4mv s
  | .governor => Sys2Proof.Machine.execGovernor s
  | .stackOver95 k temp => Sys2Proof.Machine.execStackOver95 k temp s
  | .stackOver105 k temp => Sys2Proof.Machine.execStackOver105 k temp s
  | .tileOver100 t temp => Sys2Proof.Machine.execTileOver100 t temp s
  | .thermalResponseClear x temp => Sys2Proof.Machine.execThermalResponseClear x temp s
  | .floorWindow femtojoules products => Sys2Proof.Machine.execFloorWindow femtojoules products s
  | .calibrationSave => Sys2Proof.Machine.execCalibrationSave s
  | .fwUpdateGo v => Sys2Proof.Machine.execFwUpdateGo v s
  | .fwUpdateDone read => Sys2Proof.Machine.execFwUpdateDone read s
  | .fwCommit v => Sys2Proof.Machine.execFwCommit v s
  | .attestGo v => Sys2Proof.Machine.execAttestGo v s
  | .attestDone hostOk => Sys2Proof.Machine.execAttestDone hostOk s
  | .watchdogExpiry core => Sys2Proof.Machine.execWatchdogExpiry core s
  | .managementRestart => Sys2Proof.Machine.execManagementRestart s
  | .loadWindow busy => Sys2Proof.Machine.execLoadWindow busy s
  | .telemetrySnapshot => Sys2Proof.Machine.execTelemetrySnapshot s
  | .calibrationDisagree unit region => Sys2Proof.Machine.execCalibrationDisagree unit region s
  | .calibrationRelax unit region => Sys2Proof.Machine.execCalibrationRelax unit region s
  | .monitorSample m v => Sys2Proof.Machine.execMonitorSample m v s
  | .monitorClear m v => Sys2Proof.Machine.execMonitorClear m v s
  | .turnArm v => Sys2Proof.Machine.execTurnArm v s
  | .turnDisarm v => Sys2Proof.Machine.execTurnDisarm v s
  | .turnTimeReached => Sys2Proof.Machine.execTurnTimeReached s
  | .shadowRefillDone => Sys2Proof.Machine.execShadowRefillDone s
  | .w1cClear offset v => Sys2Proof.Machine.execW1cClear offset v s
  | .registerWrite offset width v => Sys2Proof.Machine.execRegisterWrite offset width v s
  | .i3cPrivateRead n => Sys2Proof.Machine.execI3cPrivateRead n s
  | .i3cPointerWrite bytes => Sys2Proof.Machine.execI3cPointerWrite bytes s
  | .i3cStatusRefresh => Sys2Proof.Machine.execI3cStatusRefresh s
  | .bypass tdi => Sys2Proof.Machine.execBypass tdi s
  | .idcode => Sys2Proof.Machine.execIdcode s
  | .samplePreload cells => Sys2Proof.Machine.execSamplePreload cells s
  | .extest cells => Sys2Proof.Machine.execExtest cells s
  | .ethernetPortUp e => Sys2Proof.Machine.execEthernetPortUp e s
  | .ethernetPortDown e => Sys2Proof.Machine.execEthernetPortDown e s
  | .holdUpCharged => Sys2Proof.Machine.execHoldUpCharged s
  | .inputRemoved => Sys2Proof.Machine.execInputRemoved s
  | .d3hotExit => Sys2Proof.Machine.execD3hotExit s
  | .msixVectorUnmask v => Sys2Proof.Machine.execMsixVectorUnmask v s

end Sys2Proof.Machine
end

