-- ==== Sys2Proof/Safety.lean ====
section
/-! DEFINITION. What counts as a safe run, and the terms in which claims say what a command leaves as it was. -/

namespace Sys2Proof

/-- A run of `k` steps that neither faults nor refuses. -/
def SafeRun (k : Nat) (s : Machine.State) : Prop := ∃ t, Host.Core.run core k s = .next t

/-- Two states agree on everything that the raising of a record does not touch: all but the register file, the outputs, the free-value counter, the record queue and the SEQ of the log, the host interface, the running step, and the faults still to be classified or acted on. -/
structure Machine.Quiet (s t : Machine.State) : Prop where
  pending : t.pending = s.pending
  active : t.active = s.active
  job : t.job = s.job
  cores : t.cores = s.cores
  units : t.units = s.units
  phys : t.phys = s.phys
  confirm : t.confirm = s.confirm
  turns : t.turns = s.turns
  rom : t.rom = s.rom
  mem : t.mem = s.mem
  program : t.program = s.program
  last : t.last = s.last
  goodStep : t.goodStep = s.goodStep
  intact : t.intact = s.intact
  fabric : t.fabric = s.fabric
  eth : t.eth = s.eth
  power : t.power = s.power
  clock : t.clock = s.clock
  sec : t.sec = s.sec
  pins : t.pins = s.pins

end Sys2Proof
end

