-- ==== Sys2Proof/Certificates/Slice0/Obligations.lean ====
section
/-! DEFINITION. The statements about the model, for the provers. Each docstring names the rule of spec/ it formalises, or says
that it rests on a choice of the model and names the log entry. -/

open Sys2Proof Sys2Proof.Machine

/-! ### The block and its queue -/

/-- A step takes the command at the front of the queue and is `exec` of it on the state with the queue's rest. -/
def Obligations.StepRunsFrontCommand : Prop :=
  ∀ (s : State) (c : Instr), step { s with pending := c :: s.pending } = exec c s

/-- A record of this code is raised, if the queue has room. -/
def Raised (s t : State) (k : Code) : Prop := s.mgmt.queue.length < 4096 → ∃ z ∈ t.mgmt.queue, z.code = k

/-- A record of this code with this tag is raised, if the queue has room. -/
def RaisedFor (s t : State) (k : Code) (tag : Tag) : Prop := s.mgmt.queue.length < 4096 → ∃ z ∈ t.mgmt.queue, z.code = k ∧ z.tag = tag.setWidth 64

/-- No injection is armed in a unit (R381). -/
def Unarmed (s : State) : Prop := bit (s.reg Off.injectCtl) 0 = false

/-- A token counter of a core. -/
def Token (s : State) (c : CoreRef) (n : Nat) : Nat := (Sparse.look (fun _ => 0) (s.core c).tokens n).toNat

/-- The memories of every core are as they were. -/
def CoreMemoriesKept (s t : State) : Prop := ∀ d, (t.core d).sp = (s.core d).sp ∧ (t.core d).acc = (s.core d).acc ∧ (t.core d).oc = (s.core d).oc

/-! ### Commands, tokens and epochs (02) -/

/-- R39: the fields of the tag that a core's next push carries. -/
def TagFields : Prop :=
  ∀ (c : CoreRef) (s : State), bits (nextTag c s) 36 12 = s.progId.toNat ∧ bits (nextTag c s) 34 2 = c.tile.val ∧
    bits (nextTag c s) 27 7 = c.core.val ∧ bits (nextTag c s) 0 27 = (s.core c).index.toNat

/-- R27, R28, R41: a push to a queue with room puts the command behind the others, and the command index advances; a push to a full queue stalls the control core and changes nothing else; a stalled push takes place, and the stall ends, once an entry is free. R348: a push whose arithmetic fails its residue check raises 0x208D besides. -/
def PushesEnterQueues : Prop :=
  ∀ (s : State) (c : CoreRef) (e : Engine) (cmd : EngineCmd),
    (∀ residue : Bool, canPush c s = true → injecting (s.coreUnit c) 7 s = false →
      ∃ t, exec (.pushCommand c { pushed := .engine e cmd, residue := residue }) s = .next t ∧ (∀ d, d ≠ c → t.core d = s.core d) ∧
        (residue = false → { s with cores := t.cores } = t) ∧ (residue = true → RaisedFor s t 0x208D (nextTag c s)) ∧
        if ((s.core c).queue e).length < 32 then
          (t.core c).queue e = (s.core c).queue e ++ [{ cmd := cmd, tag := nextTag c s, vpos := (s.core c).vcount }] ∧
          (∀ f, f ≠ e → (t.core c).queue f = (s.core c).queue f) ∧ (t.core c).index = (s.core c).index + 1
        else t.core c = { s.core c with stalled := some (e, cmd) }) ∧
    ((s.core c).stalled = some (e, cmd) → ((s.core c).queue e).length < 32 →
      ∃ t, exec (.pushResume c) s = .next t ∧ { s with cores := t.cores } = t ∧ (∀ d, d ≠ c → t.core d = s.core d) ∧
        (t.core c).stalled = none ∧ (t.core c).index = (s.core c).index + 1 ∧
        (t.core c).queue e = (s.core c).queue e ++ [{ cmd := cmd, tag := nextTag c s, vpos := (s.core c).vcount }] ∧
        (∀ f, f ≠ e → (t.core c).queue f = (s.core c).queue f))

/-- R27, R28, R39, R41, R348: the tag that a core gives its pushes, and how a push enters its queue or stalls the control core until an entry is free. -/
def Obligations.PushEntersOrStalls : Prop := TagFields ∧ PushesEnterQueues

/-- Does a command copy by a descriptor, which it fetches as it begins (R327). -/
def Fetches (cmd : EngineCmd) : Prop := ∃ desc src dst, cmd.body = .layout desc src dst

/-- R28, R30: an idle engine whose queue is not empty begins the command at its head when every counter holds the sum of the amounts that its waits name, subtracts those sums, and leaves the other counters, the stacks, the update units and the fabric as they were, and of the other cores everything but the owners of their regions (R49); otherwise the command stays where it is. -/
def Obligations.BeginTakesWaitsTogether : Prop :=
  ∀ (s : State) (c : CoreRef) (e : Engine) (q : QCmd) (rest : List QCmd),
    (s.core c).run e = none → (s.core c).queue e = q :: rest →
    if ∀ n : Fin 32, amountFor q.cmd.waits n ≤ Token s c n then
      ∃ t r, exec (.engineBeginCommand (.core c e)) s = .next t ∧ (t.core c).run e = some r ∧ r.q = q ∧ (t.core c).queue e = rest ∧
        (∀ n, Token t c n = Token s c n - amountFor q.cmd.waits n) ∧
        (∀ d, d ≠ c → { t.core d with regions := (s.core d).regions } = s.core d) ∧
        (Unarmed s → t.mem.stack = s.mem.stack ∧ t.mem.map = s.mem.map ∧ CoreMemoriesKept s t) ∧ (¬ Fetches q.cmd → t.mem = s.mem ∧ CoreMemoriesKept s t) ∧
        t.units = s.units ∧ t.fabric = s.fabric ∧ t.pending = s.pending
    else exec (.engineBeginCommand (.core c e)) s = .next s

/-- R31, R46, R50, R51: when the last read of a release-marked operand has completed, the epoch of its region advances by one and the new epoch is open, unless the read check of the operand failed: then the epoch stays and 0x2012 is raised. The posts tied to the release are added. No other region changes, and neither does any memory. -/
def ReleaseAdvancesEpoch : Prop :=
  ∀ (s : State) (c k : CoreRef) (e : Engine) (n : Nat) (r : Running) (o : RegionOp) (g : Region),
    (s.core c).run e = some r → r.done = true → r.noop = false → r.refused = false → (nth r.accesses n accNone).named c = some (k, o, false) →
    o.release = true → n ∉ r.released → regionReleased c r k o = false → (s.core k).region o.space o.region = some g →
    ∃ t, exec (.epochRelease c e n) s = .next t ∧
      (t.core k).region o.space o.region = some (if n ∈ r.badReads then g else { g with epoch := g.epoch + 1, owner := none }) ∧
      (∀ d m id, d ≠ k ∨ regionKey m id ≠ regionKey o.space o.region → (t.core d).region m id = (s.core d).region m id) ∧
      (n ∈ r.badReads → 0x2012 ∉ r.raised → RaisedFor s t 0x2012 r.q.tag) ∧
      (∀ m, Token t c m = min 65535 (Token s c m + amountFor ((r.q.cmd.posts.filter (fun p => p.atRelease == some n)).map (fun p => p.tok)) m)) ∧
      (∃ x, (t.core c).run e = some x ∧ x.released = r.released ++ [n] ∧ x.q = r.q) ∧
      CoreMemoriesKept s t ∧ t.mem = s.mem ∧ (∀ d, d ≠ c → d ≠ k → t.core d = s.core d)

/-- R48, R49: the check of a write operand at the begin of a command, which is its first of this region. The operand passes when it names the current epoch and the epoch is no writer's or this engine's of this core; then the epoch is its own. Otherwise the region stays as it was, its writes are suppressed, and 0x2010 or 0x2013 is raised with the command's tag and the address of the first write. A command that uses a quantizer path raises each code once (R134). -/
def WriteCheck : Prop :=
  ∀ (x : Checked) (c k : CoreRef) (e : Engine) (cmd : EngineCmd) (l : List Access) (tag : Tag) (n : Nat) (o : RegionOp) (g : Region),
    (nth l n accNone).named c = some (k, o, true) → (x.s.core k).region o.space o.region = some g → x.seen = [] →
    (quantizes cmd = false ∨ ∃ r, (x.s.core c).run e = some r ∧ r.q.tag = tag ∧ 0x2010 ∉ r.raised ∧ 0x2013 ∉ r.raised) →
    let y := checkOperand c e cmd l tag x n
    if o.epoch = g.epoch ∧ (g.owner = none ∨ g.owner = some (.core c e)) then
      y.suppressed = x.suppressed ∧ (y.s.core k).region o.space o.region = some { g with owner := some (.core c e) } ∧ y.s.mgmt = x.s.mgmt
    else
      y.suppressed = x.suppressed ++ [coreRegion k o.space o.region] ∧ (∀ d, (y.s.core d).regions = (x.s.core d).regions) ∧ CoreMemoriesKept x.s y.s ∧
      (x.s.mgmt.queue.length < 4096 → ∃ z ∈ y.s.mgmt.queue, z.tag = tag.setWidth 64 ∧ z.addr = (nth l n accNone).first c x.s ∧
        z.code = (if o.epoch = g.epoch then 0x2013 else 0x2010))

/-- R31, R46, R48 to R51: the check of a write operand and the release of a region, which advances its epoch. -/
def Obligations.EpochsGuardRegions : Prop := ReleaseAdvancesEpoch ∧ WriteCheck

/-- R34: a post of a nonzero amount adds to the counter; a counter that would pass 65,535 is held there and 0x2016 is raised. -/
def PostSaturates : Prop :=
  ∀ (s : State) (c : CoreRef) (n amt : Nat) (tag : Tag),
    let old := (Sparse.look (fun _ => 0) (s.core c).tokens n).toNat
    let t := postToken c n amt tag s
    (Sparse.look (fun _ => 0) (t.core c).tokens n).toNat = min 65535 (old + amt) ∧
    (∀ m, m ≠ n → Sparse.look (fun _ => 0) (t.core c).tokens m = Sparse.look (fun _ => 0) (s.core c).tokens m) ∧
    (65535 < old + amt → s.mgmt.queue.length < 4096 → ∃ r ∈ t.mgmt.queue, r.code = 0x2016 ∧ r.tag = tag.setWidth 64) ∧
    (old + amt ≤ 65535 → t.mgmt = s.mgmt) ∧ t.mem = s.mem ∧ (∀ d, d ≠ c → t.core d = s.core d)

/-- R53, R54, R58, R619: how a command begins whose waits are taken. A no-operation checks nothing and raises nothing, and is done. Any other command with a refusal condition raises one record for each distinct code whose condition holds, is refused, and is done. In both cases no region, no byte of memory and no other core changes. A command that copies by a descriptor has read it first (R327), and what that read finds is counted and raised besides. -/
def Obligations.NoOperationOrRefusal : Prop :=
  ∀ (s : State) (c : CoreRef) (e : Engine) (q : QCmd), ¬ Fetches q.cmd ∨ Unarmed s →
    let t := beginCmd c e q s
    let d := (descOf c q.cmd s).map copyDesc
    let codes := ((refusals c q.cmd d s).map (fun x => x.1)).eraseDups
    let kept : Prop := (t.core c).regions = (s.core c).regions ∧ CoreMemoriesKept s t ∧ t.mem.stack = s.mem.stack ∧ t.mem.map = s.mem.map ∧
      ∀ d, d ≠ c → t.core d = s.core d
    (isNoop c q.cmd d s = true →
      (∃ r, (t.core c).run e = some r ∧ r.q = q ∧ r.noop = true ∧ r.refused = false ∧ r.done = true) ∧ kept ∧
      (¬ Fetches q.cmd → t.mgmt = s.mgmt ∧ t.mram = s.mram ∧ t.mem = s.mem)) ∧
    (isNoop c q.cmd d s = false → refusals c q.cmd d s ≠ [] →
      (∃ r, (t.core c).run e = some r ∧ r.q = q ∧ r.noop = false ∧ r.refused = true ∧ r.done = true ∧ (∀ k ∈ codes, k ∈ r.raised) ∧
        (¬ Fetches q.cmd → r.raised = codes)) ∧ kept ∧
      (¬ Fetches q.cmd → t.mram.nextSeq = s.mram.nextSeq + BitVec.ofNat 32 codes.length ∧ t.mem = s.mem) ∧
      (s.mgmt.queue.length + codes.length + 3 ≤ 4096 →
        ∀ k ∈ codes, ∃ z ∈ t.mgmt.queue, z.code = k ∧ z.tag = q.tag.setWidth 64 ∧ z.unit = s.coreUnit c))

/-- R31 to R33, R58, R66, R371: a command whose operation is carried out, or that was refused or is a no-operation, completes: its engine is idle, its status word stands in the engine's register, the posts that it has not made yet are added, those to other cores as far as these are placed, and a value mark shows in CMP_DET_STATUS. The other engines run on and no core memory changes. An update command completes alike, with UU_STATUS, its posts going to the core that pushed it. -/
def Obligations.CompletionEndsCommand : Prop :=
  (∀ (s : State) (c : CoreRef) (e : Engine) (r : Running) (w : Option Word), (s.core c).run e = some r → r.done = true →
    let toCore (d : CoreRef) (n : Nat) : Nat := if s.placed d then amountFor ((r.q.cmd.remote.filter (fun x => x.1 == d)).map (fun x => x.2)) n else 0
    ∃ t, exec (.commandComplete (.core c e) w) s = .next t ∧ (t.core c).run e = none ∧ (∀ f, f ≠ e → (t.core c).run f = (s.core c).run f) ∧
      (∀ d n, Token t d n = min 65535 (Token s d n + (if d = c then amountFor (completionPosts r) n else 0) + toCore d n)) ∧
      (∀ v, r.q.cmd.body = .vector v → t.reg (Off.vxStatus (coreKey c)) = r.status) ∧
      (∀ p, r.q.cmd.body = .product p ∨ r.q.cmd.body = .saffron p → t.reg (Off.mxStatus (coreKey c)) = r.status) ∧
      (∀ p, r.q.cmd.body = .exact p → t.reg (Off.mxStatus (coreKey c)) = r.status) ∧
      (∀ q v, r.q.cmd.body = .quantize q → r.quant = some v → t.reg (Off.qzStatus (coreKey c) 1) = v) ∧
      (r.q.cmd.mark = .value → bit (t.reg Off.detStatus) 0 = true) ∧ CoreMemoriesKept s t ∧ t.pending = s.pending) ∧
  (∀ (s : State) (v : Fin 4) (r : URunning) (w : Option Word), (s.uu v.val).running = some r → r.done = true →
    ∃ t, exec (.commandComplete (.update v) w) s = .next t ∧ (t.uu v.val).running = none ∧ (t.uu v.val).held = (s.uu v.val).held ∧
      t.reg (Off.uuStatus v.val) = BitVec.ofNat 64 (r.q.cmd.step.toNat + 2 ^ 32 * (s.uu v.val).flags) ∧
      (∀ d n, Token t d n = min 65535 (Token s d n + if d = r.q.by_ then amountFor r.q.cmd.posts n else 0)) ∧
      (r.q.cmd.mark = .value → bit (t.reg Off.detStatus) 0 = true) ∧ CoreMemoriesKept s t ∧ t.pending = s.pending)

/-- R60, R61: a wait that has lasted longer than CMP_TOKEN_TIMEOUT raises 0x2017 with the waiting command's tag and aborts the program: every queue of every core and update unit is empty, no command runs, token counters and region epochs are 0, the program stays loaded, and the memories are as they were. -/
def TimeoutAbortsProgram : Prop :=
  ∀ (s : State) (w : WaitSite) (st : StepRun) (x : Tag × UnitId), s.step = some st → bits (s.act Off.tokenTimeout) 0 32 ≠ 0 → waiting w s = some x →
    ∃ t, exec (.tokenTimeout w) s = .next t ∧ t.program = s.program ∧ t.mem = s.mem ∧
      (∃ r, t.step = some r ∧ r.aborted = true ∧ r.invalid = true ∧ r.number = st.number ∧ r.applied = st.applied) ∧
      (s.mgmt.queue.length < 4096 → ∃ z ∈ t.mgmt.queue, z.code = 0x2017 ∧ z.tag = x.1.setWidth 64 ∧ z.unit = x.2) ∧
      (∀ d f n, (t.core d).queue f = [] ∧ (t.core d).run f = none ∧ (t.core d).stalled = none ∧
        Sparse.look (fun _ => (0 : BitVec 16)) (t.core d).tokens n = 0) ∧
      (∀ d m id g, (t.core d).region m id = some g → g.epoch = 0 ∧ g.owner = none) ∧
      (∀ v, (t.uu v).held = [] ∧ (t.uu v).running = none)

/-- R34, R60, R61: a token counter saturates with 0x2016, and a wait that lasts too long aborts the program with 0x2017. -/
def Obligations.TokensSaturateAndTimeOut : Prop := PostSaturates ∧ TimeoutAbortsProgram

/-! ### Memory and the stream engine (08, 09) -/

/-- R298, R299: one flipped bit of a stored codeword, data or check bit, is corrected; two are found uncorrectable; a poisoned word reads as uncorrectable with syndrome 0x7F and its data as they were. -/
def Obligations.SecdedCorrectsOneFindsTwo : Prop :=
  ∀ (w : Word) (i j : Nat), i < j → j < 39 →
    eccRead (codeword w ^^^ BitVec.ofNat 39 (2 ^ i)) = .corrected w ∧ eccRead (codeword w ^^^ BitVec.ofNat 39 (2 ^ j)) = .corrected w ∧
    (∃ d k, eccRead (codeword w ^^^ BitVec.ofNat 39 (2 ^ i) ^^^ BitVec.ofNat 39 (2 ^ j)) = .uncorrectable d k) ∧
    eccRead (poisoned w) = .uncorrectable w 0x7F

/-- The stream engine of a core runs this body and has not carried it out, and no injection is armed. -/
def StreamBody (s : State) (c : CoreRef) (r : Running) (b : Body) : Prop :=
  (s.core c).run .stream = some r ∧ r.done = false ∧ r.q.cmd.body = b ∧ Unarmed s

/-- The operation of an engine's command is carried out and nothing else of what the engine runs has changed but its status and raised codes. -/
def OperationDone (t : State) (c : CoreRef) (e : Engine) (r : Running) : Prop :=
  ∃ x, (t.core c).run e = some x ∧ x.done = true ∧ x.q = r.q ∧ x.suppressed = r.suppressed ∧ x.released = r.released

/-- Every byte of a core's memories outside `n` bytes at an offset of one memory reads as before. -/
def OnlyBytes (s t : State) (c : CoreRef) (m : Space) (off n : Nat) : Prop :=
  ∀ (k : Space) (x : Nat), k ≠ m ∨ x < off ∨ off + n ≤ x → ((t.core c).mem k).byte x = ((s.core c).mem k).byte x

/-- Two runs of `n` bytes share none. -/
def Apart (a b n : Nat) : Prop := a + n ≤ b ∨ b + n ≤ a

/-- The operand's base has moved this far at repetition `k` of the command that runs (R35). -/
def Moved (r : Running) (k n : Nat) : Nat := advanceOf r.q.cmd k n

/-- R35, R48, R286, R299: a stream read delivers to its region, at each of its repetitions, the bytes that its device address names, corrected where a code corrects them; every other byte of the core, every other core and the stacks are as they were. A region whose writes a hazard suppresses receives nothing. A later repetition may write over an earlier one, and a source in a core window is read again at each. R348: a byte that fails its parity on a path of the core raises 0x208C. -/
def Obligations.StackReadDelivers : Prop :=
  ∀ (s : State) (c : CoreRef) (r : Running) (a : Dword) (win : Option RegionOp) (o : RegionOp) (n : Nat) (path : Bool),
    StreamBody s c r (.stackRead a win o n) → bit a 63 = false →
    let runs := runsOf r.q.cmd
    ∃ t, exec (.stackRead c { path := path, errs := noErrs }) s = .next t ∧ OperationDone t c .stream r ∧
      (suppressed r c o = false → ∀ k < runs,
        (runs = 1 ∨ ∀ i < n, ∃ x, addrOf (a + BitVec.ofNat 64 (Moved r k 0) + BitVec.ofNat 64 i) = .stack x) →
        (∀ j, k < j → j < runs → Apart (Moved r k 1) (Moved r j 1) n) →
        (t.core c).opBytes (moveOp o (Moved r k 1)) 0 n = devBytes c.tile.val (a + BitVec.ofNat 64 (Moved r k 0)) n s) ∧
      (∀ (m : Space) (x : Nat), (m ≠ o.space ∨ suppressed r c o = true ∨ ∀ k < runs, x < (s.core c).opBase o + Moved r k 1 ∨ (s.core c).opBase o + Moved r k 1 + n ≤ x) →
        ((t.core c).mem m).byte x = ((s.core c).mem m).byte x) ∧
      (path = true → 0x208C ∉ r.raised → RaisedFor s t 0x208C r.q.tag) ∧
      t.mem.stack = s.mem.stack ∧ t.mem.map = s.mem.map ∧ (∀ d, d ≠ c → t.core d = s.core d)

/-- R300: a foreground read that meets one correctable word delivers the corrected data, counts the event in MEM_COUNT[0] and does not rewrite the stored word. -/
def CorrectableReadCounts : Prop :=
  ∀ (s : State) (c : CoreRef) (r : Running) (a : Dword) (x : Nat) (win : Option RegionOp) (o : RegionOp) (w : Word) (i : Nat),
    StreamBody s c r (.stackRead a win o 4) → runsOf r.q.cmd = 1 → addrOf a = .stack x → x % 4 = 0 → suppressed r c o = false → i < 39 →
    (s.entryFor c.tile.val (x / stripeBytes)).state = .mapped →
    (let k := physWord (s.entryFor c.tile.val (x / stripeBytes)).loc (x % stripeBytes / 4)
     s.stored k = codeword w ^^^ BitVec.ofNat 39 (2 ^ i) → (s.mem.stack.filter (fun y => y.1 == k)).length = 1 →
     ∃ t, exec (.stackRead c { path := false, errs := noErrs }) s = .next t ∧ (t.core c).opBytes o 0 4 = leBytes 4 w.toNat ∧
       t.reg Off.memCount = satAdd (s.reg Off.memCount) 1 ∧ t.mem.stack = s.mem.stack ∧ t.mgmt = s.mgmt)

/-- R288: a read of a LOST stripe delivers zero data, counts every word in MEM_COUNT[2] and raises 0x100C and no other code; nothing is stored. -/
def LostStripeReadsPoison : Prop :=
  ∀ (s : State) (c : CoreRef) (r : Running) (a : Dword) (x : Nat) (win : Option RegionOp) (o : RegionOp) (n : Nat),
    StreamBody s c r (.stackRead a win o n) → runsOf r.q.cmd = 1 → addrOf a = .stack x → 0 < n → x / stripeBytes = (x + n - 1) / stripeBytes →
    suppressed r c o = false → 0x100C ∉ r.raised → (s.entryFor c.tile.val (x / stripeBytes)).state = .lost →
    ∃ t, exec (.stackRead c { path := false, errs := noErrs }) s = .next t ∧ (t.core c).opBytes o 0 n = List.replicate n 0 ∧
      t.reg (Off.memCount + 16) = satAdd (s.reg (Off.memCount + 16)) (wordsTouched x n) ∧ t.mem.stack = s.mem.stack ∧
      t.mram.nextSeq = s.mram.nextSeq + 1 ∧
      (s.mgmt.queue.length < 4096 → ∃ z, t.mgmt.queue = s.mgmt.queue ++ [z] ∧ z.code = 0x100C ∧ z.addr = BitVec.ofNat 64 x ∧ z.tag = r.q.tag.setWidth 64)

/-- R302: path parity that fails twice on a piece of a read raises 0x1009 with the piece's address; once, it is corrected by the second read and raises nothing. The data are delivered. -/
def PathParityRetries : Prop :=
  ∀ (s : State) (c : CoreRef) (r : Running) (a : Dword) (x : Nat) (win : Option RegionOp) (o : RegionOp) (n fails : Nat),
    StreamBody s c r (.stackRead a win o n) → runsOf r.q.cmd = 1 → addrOf a = .stack x → 0 < n → x / stripeBytes = (x + n - 1) / stripeBytes →
    suppressed r c o = false → (s.entryFor c.tile.val (x / stripeBytes)).readable = true → 0 < fails → s.mem.stack = [] →
    ∃ t, exec (.stackRead c { path := false, errs := { flips := [], parity := [(0, fails)] } }) s = .next t ∧ OperationDone t c .stream r ∧
      (t.core c).opBytes o 0 n = devBytes c.tile.val a n s ∧ t.mem.stack = [] ∧
      (fails = 1 → t.reg Off.memCount = satAdd (s.reg Off.memCount) 1 ∧ t.mgmt = s.mgmt) ∧
      (1 < fails → 0x1009 ∉ r.raised → s.mgmt.queue.length < 4096 →
        ∃ z, t.mgmt.queue = s.mgmt.queue ++ [z] ∧ z.code = 0x1009 ∧ z.addr = BitVec.ofNat 64 x ∧ z.tag = r.q.tag.setWidth 64)

/-- R288, R300, R302: what a stream read of a correctable word, of a LOST stripe and over a path that fails delivers, counts and raises. -/
def Obligations.DamagedWordsAreCounted : Prop := CorrectableReadCounts ∧ LostStripeReadsPoison ∧ PathParityRetries

/-- The physical word that a stack address names for tile `t`. -/
def PhysAt (s : State) (t a : Nat) : Nat := physWord (s.entryFor t (a / stripeBytes)).loc (a % stripeBytes / 4)

/-- The second physical word of an address whose entry is COPYING. -/
def PhysAt2 (s : State) (t a : Nat) : Option Nat :=
  if (s.entryFor t (a / stripeBytes)).state = .copying then (s.entryFor t (a / stripeBytes)).loc2.map (fun d => physWord d (a % stripeBytes / 4)) else none

/-- A write of a word at a stack address reaches this physical word. -/
def WordReaches (s : State) (t a k : Nat) : Prop :=
  (s.entryFor t (a / stripeBytes)).readable = true ∧ (k = PhysAt s t a ∨ PhysAt2 s t a = some k)

/-- R35, R276, R286, R287: a stream write of whole words stores each word of each repetition as its codeword where its entry says, in both places of a stripe that is COPYING, so long as no later word goes to the same place; every physical word that no word of the write reaches is as it was. -/
def WordsAreStored : Prop :=
  ∀ (s : State) (c : CoreRef) (r : Running) (a : Dword) (x n : Nat) (win : Option RegionOp) (o : RegionOp) (path : Bool),
    StreamBody s c r (.stackWrite o a win (4 * n)) → addrOf a = .stack x → x % 4 = 0 →
    (∀ k < runsOf r.q.cmd, addrOf (a + BitVec.ofNat 64 (Moved r k 1)) = .stack (x + Moved r k 1) ∧ Moved r k 1 % 4 = 0) →
    let dest (k i : Nat) : Nat := x + Moved r k 1 + 4 * i
    ∃ t, exec (.stackWrite { core := c, path := path }) s = .next t ∧ OperationDone t c .stream r ∧
      (∀ k < runsOf r.q.cmd, ∀ i < n, ∀ w, WordReaches s c.tile.val (dest k i) w →
        (∀ k' < runsOf r.q.cmd, ∀ i' < n, (k < k' ∨ (k = k' ∧ i < i')) → ¬ WordReaches s c.tile.val (dest k' i') w) →
        t.stored w = codeword (BitVec.ofNat 32 (fromLe ((s.core c).opBytes (moveOp o (Moved r k 0)) (4 * i) 4)))) ∧
      (∀ w, (∀ k < runsOf r.q.cmd, ∀ i < n, ¬ WordReaches s c.tile.val (dest k i) w) → t.stored w = s.stored w) ∧
      t.mem.map = s.mem.map ∧ (∀ d, d ≠ c → t.core d = s.core d) ∧ OnlyBytes s t c o.space 0 0

/-- R33, R48, R49, R371: a stream write into a core window puts the bytes of its region there; a core that is not placed drops them, which is counted, and the first such drop of its placement epoch raises 0x0012; where the check of the region in the window failed, nothing is written. -/
def WindowsAreWritten : Prop :=
  ∀ (s : State) (c d : CoreRef) (r : Running) (a : Dword) (m : Space) (off n : Nat) (win : Option RegionOp) (o : RegionOp),
    StreamBody s c r (.stackWrite o a win n) → runsOf r.q.cmd = 1 → addrOf a = .window d m off →
    ∃ t, exec (.stackWrite { core := c, path := false }) s = .next t ∧ OperationDone t c .stream r ∧ t.mem.stack = s.mem.stack ∧
      (destSuppressed r a win = true → CoreMemoriesKept s t) ∧
      (destSuppressed r a win = false → s.placed d = true →
        ((t.core d).mem m).bytes off n = (s.core c).opBytes o 0 n ∧ OnlyBytes s t d m off n ∧ (∀ b, b ≠ d → OnlyBytes s t b m 0 0)) ∧
      (destSuppressed r a win = false → s.placed d = false →
        CoreMemoriesKept s t ∧ t.reg (Off.relCount + 56) = satAdd (s.reg (Off.relCount + 56)) 1 ∧ ((s.core d).dropSeen = false → Raised s t 0x0012))

/-- R276, R286, R287, R371: what a stream write stores in the stacks and in core windows. -/
def Obligations.StackWriteStores : Prop := WordsAreStored ∧ WindowsAreWritten

/-- R275, R294, R331 (the request's form is the model's, log 26): a stream read or copy whose source is remote asks, while the cache part is not in use, the device that each of its addresses names for its bytes, one request a range, and waits; while it is in use, every line that it touches is held or on its way. -/
def RemoteReadRequests : Prop :=
  ∀ (s : State) (c : CoreRef) (r : Running) (b : Body) (i : Instr), StreamBody s c r b →
    (readsRemote b = true ∧ i = .remoteStackRead { core := c, path := false, errs := noErrs }) ∨
      ((∃ d x y, b = .layout d x y) ∧ bit (copyDesc r.copy).src 63 = true ∧ i = .layoutCopyCommand { core := c, path := false, errs := noErrs }) →
    (s.core c).remote = none → remoteSpans r ≠ [] → (∀ x ∈ remoteSpans r, 0 < x.2) →
    (s.cacheOn = false → ∃ t w l, exec i s = .next t ∧ (t.core c).remote = some w ∧ w.cached = false ∧
      w.parts.map (fun p => (p.addr, p.len)) = remoteSpans r ∧ (∀ p ∈ w.parts, p.got = []) ∧
      t.fabric.requests = s.fabric.requests + BitVec.ofNat 32 (remoteSpans r).length ∧ t.fabric.out = s.fabric.out ++ l ∧
      l.map (fun x => (x.dst, x.msg.hdr.op, x.msg.hdr.address, x.msg.hdr.coll, x.msg.hdr.step)) =
        w.parts.map (fun p => (BitVec.ofNat 16 (bits p.addr 47 16), 5#8, BitVec.ofNat 64 (bits p.addr 0 47), p.num, s.stepNo)) ∧
      (t.core c).run .stream = some r ∧ t.mem = s.mem ∧ (∀ d, d ≠ c → t.core d = s.core d)) ∧
    (s.cacheOn = true → ∃ t, exec i s = .next t ∧
      ∀ x ∈ remoteSpans r, ∀ l ∈ linesTouched x.1 x.2, (t.lineWay l).isSome = true ∨ t.mem.fetching.any (fun y => y.1 == l) = true)

/-- R293, R294, R295: a line that arrives and is not held yet is held in the set that its address names, is no longer on its way, and is counted in MEM_COUNT[7]; a stream invalidate leaves no line, unless a read of a remote address is under way: then nothing changes yet. -/
def Obligations.CacheLinesFillAndInvalidate : Prop :=
  (∀ (s : State) (line : Dword) (data : List Byte), s.cacheOn = true → s.mem.fetching.any (fun x => x.1 == line) = true →
    (∀ x ∈ s.mem.lines, x.2.1 ≠ line) →
    ∃ t way, exec (.cacheLineFetchDone line data) s = .next t ∧ (line.toNat / 32768 % s.cacheSets, line, way) ∈ t.mem.lines ∧
      (∀ x ∈ t.mem.fetching, x.1 ≠ line) ∧ t.reg (Off.memCount + 56) = satAdd (s.reg (Off.memCount + 56)) 1) ∧
  (∀ (s : State) (c : CoreRef) (r : Running), StreamBody s c r .invalidate →
    if s.cores.any (fun x => x.2.remote.isSome) then exec (.cacheInvalidate c) s = .next s
    else ∃ t, exec (.cacheInvalidate c) s = .next t ∧ t.mem = { s.mem with lines := [], fetching := [] } ∧ OperationDone t c .stream r ∧
      (∀ d, d ≠ c → t.core d = s.core d) ∧ OnlyBytes s t c .sp 0 0)

/-- A byte after runs of bytes, as offset and bytes, have been written over it in order. -/
def Overlay (ws : List (Nat × List Byte)) (old : Nat → Byte) (i : Nat) : Byte :=
  ws.foldl (fun v w => if w.1 ≤ i ∧ i < w.1 + w.2.length then nth w.2 (i - w.1) 0 else v) (old i)

/-- R35, R329: a copy between two regions of a core moves the bytes as they are, at each of its repetitions. -/
def RegionsAreCopied : Prop :=
  ∀ (s : State) (c : CoreRef) (r : Running) (src dst : RegionOp) (n : Nat) (path : Bool), StreamBody s c r (.copy src dst n) →
    let runs := runsOf r.q.cmd
    ∃ t, exec (.layoutCopyCommand { core := c, path := path, errs := noErrs }) s = .next t ∧ OperationDone t c .stream r ∧
      (suppressed r c dst = false → ∀ k < runs, (runs = 1 ∨ src.space ≠ dst.space) → (∀ j, k < j → j < runs → Apart (Moved r k 1) (Moved r j 1) n) →
        (t.core c).opBytes (moveOp dst (Moved r k 1)) 0 n = (s.core c).opBytes (moveOp src (Moved r k 0)) 0 n) ∧
      (∀ (m : Space) (x : Nat), (m ≠ dst.space ∨ suppressed r c dst = true ∨ ∀ k < runs, x < (s.core c).opBase dst + Moved r k 1 ∨ (s.core c).opBase dst + Moved r k 1 + n ≤ x) →
        ((t.core c).mem m).byte x = ((s.core c).mem m).byte x) ∧
      t.mem.stack = s.mem.stack ∧ (∀ d, d ≠ c → t.core d = s.core d)

/-- R329, R330, R347: a layout copy within the device writes every run of its descriptor, in order, from the source as it stood, and no other byte of the destination's memory or stripe; it counts itself and the bytes it writes. Where the check of its destination failed it writes none. -/
def DescriptorsAreCopied : Prop :=
  ∀ (s : State) (c : CoreRef) (r : Running) (desc : Loc) (src dst : Option RegionOp), StreamBody s c r (.layout desc src dst) →
    let d := copyDesc r.copy
    let ws := if destSuppressed r d.dst dst then [] else d.writes (fun i => devByte c.tile.val (d.src + BitVec.ofNat 64 i) s)
    bit d.src 63 = false →
    ∃ t, exec (.layoutCopyCommand { core := c, path := false, errs := noErrs }) s = .next t ∧ OperationDone t c .stream r ∧
      t.reg Off.lxCount = satAdd (s.reg Off.lxCount) 1 ∧
      t.reg (Off.lxCount + 16) = satAdd (s.reg (Off.lxCount + 16)) (total (ws.map (fun w => w.2.length))) ∧
      (∀ e m off, addrOf d.dst = .window e m off → s.placed e = true → (∀ w ∈ ws, off + w.1 + w.2.length ≤ spaceSize m) →
        t.mem.stack = s.mem.stack ∧
        ∀ i, off + i < spaceSize m → ((t.core e).mem m).byte (off + i) = Overlay ws (fun j => ((s.core e).mem m).byte (off + j)) i) ∧
      (∀ x, addrOf d.dst = .stack x → x % 4 = 0 → (s.entryFor c.tile.val (x / stripeBytes)).state = .mapped →
        (∀ w ∈ ws, w.1 % 4 = 0 ∧ x % stripeBytes + w.1 + w.2.length ≤ stripeBytes) →
        CoreMemoriesKept s t ∧ ∀ i, x % stripeBytes + i < stripeBytes → t.stackByte c.tile.val (x + i) = Overlay ws (fun j => s.stackByte c.tile.val (x + j)) i)

/-- R329, R330, R347: copies within the device, by a descriptor and between two regions of a core. A copy whose source is remote asks for it first (`RemoteReads`). -/
def Obligations.CopiesMoveBits : Prop := RegionsAreCopied ∧ DescriptorsAreCopied

/-! ### Numbers, the quantizer and the matrix engine (03 to 05) -/

/-- R74 to R79, R81, R98: every code of FP4, E4M3, E5M2, BF16 and FP32 that denotes no NaN is what its own value encodes to, the narrow formats' second code of zero apart. -/
def Obligations.CodesRoundTrip : Prop :=
  ∀ (g : Grid) (code : Nat), g ∈ [Grid.fp4, Grid.e4m3, Grid.e5m2, Grid.bf16, Grid.fp32] → code < 2 ^ g.width → g.decode code ≠ .nan →
    (code % 2 ^ (g.width - 1) ≠ 0 ∨ code = 0 ∨ 16 ≤ g.width) → g.encode .rne 0 (g.decode code) = code

/-- R124: the code of the E8M0 scale for a group maximum m beneath a row scale r is e + 127 for the smallest integer e with Q × 2^e × r ≥ m, held within −126 and 127. Fractions stand for m and r. -/
def Obligations.E8m0ScaleIsLeast : Prop :=
  ∀ (q : Nat) (r m : Nat × Nat), 0 < q → 0 < r.1 → 0 < r.2 → 0 < m.1 → 0 < m.2 →
    let fits (e : Int) : Prop := fracLe m ((scaleFrac (q * r.1) r.2 e).1, (scaleFrac (q * r.1) r.2 e).2) = true
    let e : Int := (e8m0For q r m : Int) - 127
    e ≤ 127 ∧ -126 ≤ e ∧ (e < 127 → fits e) ∧ (-126 < e → ¬ fits (e - 1))

/-- The runs of bytes that a quantizing command writes to each of its destinations, in order (R106, R110, R115, R136): element codes by piece, scale codes, row scales, saffron blocks, channel maxima, the statistics record. -/
def QuantRuns (c : CoreRef) (q : QuantCmd) (s : State) : List (Option Loc × List (Nat × List Byte)) :=
  let rows := quantRows c q s
  let code (k i j : Nat) : Nat := match rows[i]? with | some x => nth (nth x.codes j []) k 0 | none => 0
  let scale (i n : Nat) : Nat := match rows[i]? with | some x => nth x.scales n 0 | none => 0
  [(q.elemDst, (List.range (qoutPieces q.p.out)).flatMap (fun k =>
      (matrixWrites q.layout.val (fmtWidth (qoutFmt q.p.out)) q.rows q.cols q.elemStride (code k)).map (fun w => (k * q.pieceGap + w.1, w.2)))),
   (q.scaleDst, matrixWrites q.scaleLayout.val 8 q.rows (groupsOf q.cols q.p.group) q.scaleStride scale),
   (q.rowScaleDst, [(0, rows.flatMap (fun x => leBytes 4 x.row.toNat))]),
   (q.saffronDst, [(0, saffronBytes q.p rows)]),
   (q.chanMax.map Loc.region, match q.chanMax with | some o => [(0, (chanMaxWords c q o s).flatMap (fun w => leBytes 4 w.toNat))] | none => []),
   (q.stats.map Loc.region, [(0, statsBytes q.p (extractedChannels q) (sliceStat rows))])]

/-- Those of the runs that go to one memory of a core, by offset in it. -/
def RunsIn (k : CoreSt) (l : List (Option Loc × List (Nat × List Byte))) (m : Space) : List (Nat × List Byte) :=
  l.flatMap (fun x => match x.1 with
    | some (.region o) => if o.space = m then x.2.map (fun w => (k.opBase o + w.1, w.2)) else []
    | _ => [])

/-- R106, R110, R115, R136, R138 to R141: the write path carries out a quantizing command on the rows as they stood. Its status word counts them, and each result stands, later runs over earlier ones, at its destination in a region or, where the element codes go to a mapped stripe of the stacks in whole words, there. A repeated command does this again on its moved operands (R35); here it runs once. -/
def Obligations.QuantizeWrites : Prop :=
  ∀ (s : State) (c : CoreRef) (r : Running) (q0 : QuantCmd) (path : Bool), StreamBody s c r (.quantize q0) →
    let q := loadQuant c q0 s
    let inRegion (l : Option Loc) : Prop := ∀ x, l = some x → ∃ o, x = .region o ∧ suppressed r c o = false
    ∃ t x, exec (.streamQuantizeWrite { core := c, path := path }) s = .next t ∧ OperationDone t c .stream r ∧ (t.core c).run .stream = some x ∧
      (∀ d, (t.core d).regions = (s.core d).regions) ∧
      (runsOf r.q.cmd = 1 →
        x.quant = some (qzWord q.p (sliceStat (quantRows c q s)) false) ∧
        ((∀ l ∈ QuantRuns c q s, inRegion l.1) →
          (∀ (m : Space) (i : Nat), ((t.core c).mem m).byte i = Overlay (RunsIn (s.core c) (QuantRuns c q s) m) (fun j => ((s.core c).mem m).byte j) i) ∧
          t.mem.stack = s.mem.stack ∧ ∀ d, d ≠ c → t.core d = s.core d) ∧
        (∀ a y, q.elemDst = some (.stack a) → addrOf a = .stack y → y % 4 = 0 → (s.entryFor c.tile.val (y / stripeBytes)).state = .mapped →
          (∀ l ∈ (QuantRuns c q s).drop 1, inRegion l.1) →
          ∀ ws, (QuantRuns c q s).head? = some (q.elemDst, ws) →
          (∀ w ∈ ws, w.1 % 4 = 0 ∧ w.2.length % 4 = 0 ∧ y % stripeBytes + w.1 + w.2.length ≤ stripeBytes) →
          ∀ i, y % stripeBytes + i < stripeBytes → t.stackByte c.tile.val (y + i) = Overlay ws (fun j => s.stackByte c.tile.val (y + j)) i))

/-- The matrix engine of a core runs this body and has not carried it out, and no injection is armed. -/
def MatrixBody (s : State) (c : CoreRef) (r : Running) (b : Body) : Prop :=
  (s.core c).run .matrix = some r ∧ r.done = false ∧ r.q.cmd.body = b ∧ Unarmed s

/-- Nothing strikes a command's run. -/
def calm : Conditions := { up := none, errs := noErrs }

/-- R157, R179: a narrow-promotion product, and a saffron side pass with at most four bands a pass, is carried out. Run once, it writes to each output element its accumulator after every group term in ascending order, each addition rounded once, begun at +0 or at what the region held. The operands are those that the stored tensors or the operand path deliver. -/
def Obligations.ProductAccumulates : Prop :=
  ∀ (s : State) (c : CoreRef) (r : Running) (p : ProductCmd) (side : Bool),
    MatrixBody s c r (if side then .saffron p else .product p) →
    let z := prepareBoth c r p.a p.b p.transposed p.colWise (none, none) (beginReads c .matrix r noErrs 0 s)
    let passes := passesOf p.packing z.1.pieces z.2.1.pieces p.drop (if side then 4 else 256)
    let steps := termSteps passes (groupsOf (max z.1.cols z.2.1.cols) z.1.group)
    ∃ t, exec (if side then .saffronSidePass c calm else .matrixProduct c calm) s = .next t ∧ OperationDone t c .matrix r ∧
      (∀ d, (t.core d).regions = (s.core d).regions) ∧
      (runsOf r.q.cmd = 1 → suppressed r c p.dst = false → 4 * z.2.1.rows ≤ p.dstStride → ∀ i < z.1.rows, ∀ n < z.2.1.rows,
        let v0 : Word := if p.fresh then 0 else BitVec.ofNat 32 (fromLe ((s.core c).opBytes p.dst (i * p.dstStride + 4 * n) 4))
        (t.core c).opBytes p.dst (i * p.dstStride + 4 * n) 4 = leBytes 4 (promote z.1 z.2.1 p.packing [] i n steps v0).1.toNat)

/-- R161 to R166: an exact-mode product on its block, whose window it names, is carried out. Run once, it adds every in-window term of each element exactly to its long registers, from zero when it opens the block and from what they hold otherwise; without the close mark the registers stand in the region afterwards, and with it each element of the command's rows is written as the one rounding of its registers. The block keeps its anchor. -/
def Obligations.ExactProductAddsTerms : Prop :=
  ∀ (s : State) (c : CoreRef) (r : Running) (p : ExactCmd) (blk : ExactBlock),
    MatrixBody s c r (.exact p) → (s.core c).block p.lr = some blk →
    let z := prepareBoth c r p.a p.b p.transposed p.colWise (none, none) (beginReads c .matrix r noErrs 0 s)
    let w := if blk.two then 64 else 32
    let steps := termSteps (passesOf p.packing z.1.pieces z.2.1.pieces p.drop 256) (groupsOf (max z.1.cols z.2.1.cols) z.1.group)
    ∃ t, exec (.exactModeProduct c calm) s = .next t ∧ OperationDone t c .matrix r ∧ (∀ d, (t.core d).regions = (s.core d).regions) ∧
      (runsOf r.q.cmd = 1 → suppressed r c p.lr = false → p.twoWindow = blk.two → z.2.1.rows ≤ 256 → p.row0 + z.1.rows ≤ p.blockRows →
        ∃ y, (t.core c).block p.lr = some y ∧ y.anchor = blk.anchor ∧ y.two = blk.two ∧
        ∀ i < z.1.rows, ∀ n < z.2.1.rows,
          let x0 : LongReg := if p.opens then { hi := 0, lo := 0, added := 0, oow := 0, dropped := 0, nan := false }
            else longAt c p.lr blk.two (p.row0 + i) n z.2.2.2
          let x := accumulate z.1 z.2.1 p.packing [] blk.anchor blk.two i n steps x0
          (p.closes = false →
            (t.core c).opBytes p.lr (w * (256 * (p.row0 + i) + n)) 32 = bytesOfReg x.hi ∧
            (blk.two = true → (t.core c).opBytes p.lr (w * (256 * (p.row0 + i) + n) + 32) 32 = bytesOfReg x.lo)) ∧
          (p.closes = true → suppressed r c p.dst = false → n < (stationaryShape p.b p.colWise).1 → 4 * (stationaryShape p.b p.colWise).1 ≤ p.dstStride →
            (t.core c).opBytes p.dst ((p.row0 + i) * p.dstStride + 4 * n) 4 =
              leBytes 4 (closeValue blk.anchor (decide (2 ^ 30 < y.most)) (regOfBytes (bytesOfReg x.hi)) (if blk.two then regOfBytes (bytesOfReg x.lo) else 0)).toNat))

/-- One flip of one bit. -/
def OneBit (u : Upset) (b : Nat) : Prop := u.mask = BitVec.ofNat 256 (2 ^ b)

/-- R181, R182: one flipped bit of a raw column sum is found by its checksum, in every way of forming the terms: the check, while it is enabled, counts it in CMP_MX_COUNT[0] and raises 0x2040 with the command's tag and the address of the row. -/
def SumFlipsAreFound : Prop :=
  ∀ (s : State) (c : CoreRef) (r : Running) (a b : Narrow) (packing : Packing) (drop : Bool) (bandsPerPass groups bit_ : Nat) (addr : Nat → Dword) (h : Hit)
    (pass : List (Nat × Nat)) (x : Int × Nat),
    let passes := passesOf packing a.pieces b.pieces drop bandsPerPass
    let u := h.up
    (s.core c).run .matrix = some r → r.checks.testBit 0 = true → 0x2040 ∉ r.raised → a.group = b.group → 0 < a.group →
    u.at_ = .sum → OneBit u bit_ → bit_ < adderWidth packing → passes[u.pass]? = some pass → u.row < a.rows → u.index < groups → u.column < b.rows → b.rows ≤ 256 →
    (rawSums a b packing pass u.row u.column u.index)[u.piece]? = some x → -2 ^ (adderWidth packing - 1) ≤ x.1 → x.1 < 2 ^ (adderWidth packing - 1) →
    let t := checkHits c a b packing passes groups (fun _ => 0) addr [h] s
    t.reg Off.mxCount = satAdd (s.reg Off.mxCount) 1 ∧ chkBit c t = true ∧
    (s.mgmt.queue.length < 4096 → ∃ z ∈ t.mgmt.queue, z.code = 0x2040 ∧ z.tag = r.q.tag.setWidth 64 ∧ z.unit = s.coreUnit c ∧ z.addr = addr u.row)

/-- R184: one flipped bit of a promoted result, of a combined sum or of a long register changes it by what is no multiple of 3, and such a change, while the residue check is enabled, is counted in CMP_MX_COUNT[1] and raises 0x2041 with the command's tag. -/
def ResultFlipsAreFound : Prop :=
  (∀ (v : Word) (b : Nat), b < 32 → (((v ^^^ BitVec.ofNat 32 (2 ^ b)).toNat : Int) - (v.toNat : Int)) % 3 ≠ 0) ∧
  (∀ (w : Nat) (v : Int) (b : Nat), b < w → w ≤ 256 → -2 ^ (w - 1) ≤ v → v < 2 ^ (w - 1) → (flipBits w v (BitVec.ofNat 256 (2 ^ b)) - v) % 3 ≠ 0) ∧
  (∀ (s : State) (c : CoreRef) (r : Running) (a b : Narrow) (packing : Packing) (passes : List (List (Nat × Nat))) (groups : Nat) (later : Hit → Int)
    (addr : Nat → Dword) (h : Hit),
    (s.core c).run .matrix = some r → r.checks.testBit 1 = true → 0x2041 ∉ r.raised → h.up.at_ ∈ [Strike.combined, Strike.promoted, Strike.low] →
    later h % 3 ≠ 0 →
    let t := checkHits c a b packing passes groups later addr [h] s
    t.reg (Off.mxCount + 8) = satAdd (s.reg (Off.mxCount + 8)) 1 ∧ chkBit c t = true ∧
    (s.mgmt.queue.length < 4096 → ∃ z ∈ t.mgmt.queue, z.code = 0x2041 ∧ z.tag = r.q.tag.setWidth 64 ∧ z.unit = s.coreUnit c ∧ z.addr = addr h.up.row))

/-- R181 to R184: the checksum finds every flip of one bit of a raw column sum, and the residue check one of what the later stages form. -/
def Obligations.SingleFlipsAreFound : Prop := SumFlipsAreFound ∧ ResultFlipsAreFound

/-! ### The vector engine (06) -/

/-- The command of the table that carries out a vector operation. -/
def VectorInstr (c : CoreRef) : VOp → Instr
  | .copy | .convert | .scale _ | .fill => .vectorCopyConvert c none
  | .add | .sub | .mul => .vectorBinary c none
  | .min | .max => .vectorMinMax c none
  | .compare _ => .vectorCompare c none
  | .select => .vectorSelect c none
  | .fma => .vectorFma c none
  | .div | .sqrt | .rsqrt => .vectorDivideRoot c none
  | .table _ _ => .tableFunction c none
  | .tableTimes _ _ => .tableFunctionTimesSource c none
  | .reduce _ _ => .rowReduction c none
  | .draw _ _ _ _ => .draw c none
  | .cacheFill => .operandCacheFill c none

/-- The vector engine of a core runs this command and has not carried it out, and no injection is armed. -/
def VectorBody (s : State) (c : CoreRef) (r : Running) (v : VectorCmd) : Prop :=
  (s.core c).run .vector = some r ∧ r.done = false ∧ r.q.cmd.body = .vector v ∧ Unarmed s

/-- R194, R199, R201, R204, R210, R224: every operation of the vector engine writes, row by row of its destination, the codes of the results of that row from its sources as they stood, and its E8M0 code to each of its scales; its status word counts what it writes; the stacks and every other core are as they were. A destination that a hazard suppresses receives nothing. The rows of the destination do not overlap, and its scales, if it has them, lie in another memory. -/
def Obligations.VectorRowsWritten : Prop :=
  ∀ (s : State) (c : CoreRef) (r : Running) (v : VectorCmd), VectorBody s c r v →
    (∀ o, v.dst.scales = some o → o.space ≠ v.dst.op.space) →
    let rows := r.q.cmd.repeats
    let row (i : Nat) : List Byte := rowBytes v (rowCodes v s i (vectorRow c v rows s i)) (vectorRow c v rows s i).index
    let live := !suppressed r c v.dst.op
    (∀ i < rows, (row i).length ≤ v.dst.rowStride) →
    ∃ t x, exec (VectorInstr c v.vop) s = .next t ∧ OperationDone t c .vector r ∧ (t.core c).run .vector = some x ∧
      (live = true → ∀ i < rows, (t.core c).opBytes v.dst.op (i * v.dst.rowStride) (row i).length = row i) ∧
      (∀ o, v.dst.scales = some o → suppressed r c o = false →
        (t.core c).opBytes o 0 (codesWritten v rows) = List.replicate (codesWritten v rows) (destScale v)) ∧
      x.status = vxWord (((List.range rows).foldl (fun (a : VxStat) i => a.add (rowStat v (vectorRow c v rows s i) (rowCodes v s i (vectorRow c v rows s i)))) VxStat.empty).written live) false ∧
      (v.dst.scales = none → OnlyBytes s t c v.dst.op.space ((s.core c).opBase v.dst.op) (if live then v.dst.rowStride * rows else 0)) ∧
      t.mem.stack = s.mem.stack ∧ (∀ d, d ≠ c → t.core d = s.core d)

/-- R622, R623: the order of minimum and maximum does not matter, a NaN operand gives the canonical NaN, and of less, equal, greater and unordered exactly one holds of any two values. -/
def MinMaxAndRelations : Prop :=
  (∀ a b : Word, fmax a b = fmax b a ∧ fmin a b = fmin b a ∧ (isNan a = true ∨ isNan b = true → fmax a b = nan32 ∧ fmin a b = nan32)) ∧
  (∀ a b : Word, let h (r : Rel) : Nat := flag (relHolds r (f32 a) (f32 b))
    h .lt + h .eq + h .gt + h .unordered = 1 ∧ relHolds .ne (f32 a) (f32 b) = !relHolds .eq (f32 a) (f32 b) ∧
    h .le = h .lt + h .eq ∧ h .ge = h .gt + h .eq)

/-- R222, R223: the winner of a draw is one of the candidates, none has a larger key, and among equal keys none has a lower index; a NaN key gives the canonical NaN with index 0xFFFF_FFFF. -/
def DrawPicksLargestKey : Prop :=
  ∀ ks : List (Word × Nat),
    (ks.any (fun k => isNan k.1) = true → drawRow ks = (nan32, 0xFFFFFFFF, true, false)) ∧
    (ks.any (fun k => isNan k.1) = false → ks.any (fun k => f32 k.1 != .inf true) = true →
      ∃ w ∈ ks, drawRow ks = (w.1, w.2, false, false) ∧
        ∀ k ∈ ks, (f32 k.1).cmp (f32 w.1) < 0 ∨ ((f32 k.1).cmp (f32 w.1) = 0 ∧ w.2 ≤ k.2))

/-- R222, R223, R622, R623: minimum, maximum, the relations, and the winner of a draw. -/
def Obligations.ComparisonsAndDraws : Prop := MinMaxAndRelations ∧ DrawPicksLargestKey

/-- R356, R378, R379 (which commands firmware takes is the model's choice, log 131): a check slot, and a check that Dealmeg inserts before the partial norm has left, counts itself in CMP_REL_COUNT[0]; when the re-execution gives other bytes than were written, it counts in CMP_REL_COUNT[1] and raises 0x2080 against both physical cores, and otherwise it raises nothing. An inserted check shows in TIMING_VARY. -/
def Obligations.CheckSlotsCompare : Prop :=
  ∀ (s : State) (c : CoreRef) (x : Sample), s.mgmt.traceOn = false → s.mgmt.queue.length + 2 ≤ 4096 →
    let after (t : State) : Prop :=
      t.reg Off.relCount = satAdd (s.reg Off.relCount) 1 ∧
      (x.clean = x.written → t.mgmt = s.mgmt ∧ t.reg (Off.relCount + 8) = s.reg (Off.relCount + 8)) ∧
      (x.clean ≠ x.written → t.reg (Off.relCount + 8) = satAdd (s.reg (Off.relCount + 8)) 1 ∧
        ∃ y z, t.mgmt.queue = s.mgmt.queue ++ [y, z] ∧ y.code = 0x2080 ∧ z.code = 0x2080 ∧ y.unit = unitId 1 c.tile.val x.phys ∧ z.unit = s.coreUnit c) ∧
      t.mem = s.mem ∧ (t.core c).regions = (s.core c).regions ∧ (t.core c).sp = (s.core c).sp ∧ (t.core c).acc = (s.core c).acc
    (∀ (r : Running) (n : Nat), (s.core c).run .vector = some r → r.done = false → r.q.cmd.body = .checkSlot n →
      (s.core (neighbour c)).samples.find? (fun x => x.position == n && x.valid) = some x →
      ∃ t, exec (.checkSlot c none) s = .next t ∧ OperationDone t c .vector r ∧ after t) ∧
    (∀ n, (s.core (neighbour c)).samples.find? (fun x => x.position == n && x.valid) = some x →
      firmwareMay x s = true → s.normLeft = false → (s.core c).run .vector = none → s.placed c = true →
      ∃ t, exec (.firmwareCheckInsert c n none) s = .next t ∧ after t ∧ bit (t.reg Off.detStatus) 1 = true)


/-! ### The update units (07) -/

/-- A record of this code with this tag is raised, if the queue has room for all that a command may raise. -/
def RaisedAmong (s t : State) (k : Code) (tag : Tag) : Prop := s.mgmt.queue.length + 32 ≤ 4096 → ∃ z ∈ t.mgmt.queue, z.code = k ∧ z.tag = tag.setWidth 64

/-- The words that writes of runs of bytes at stack addresses store, in order, with their addresses. -/
def WordsOf (ws : List (Nat × List Byte)) : List (Nat × Word) :=
  ws.flatMap (fun w => ((toWords w.2).zip (List.range (toWords w.2).length)).map (fun x => (w.1 + 4 * x.2, x.1)))

/-- The stacks hold each word of these writes wherever it reaches and no later word of them does, and every physical word that none reaches is as it was. -/
def WritesStored (s t : State) (v : Nat) (ws : List (Nat × List Byte)) : Prop :=
  (∀ (k : Nat) (x : Nat × Word), (WordsOf ws)[k]? = some x → ∀ p, WordReaches s v x.1 p → (∀ (j : Nat) (y : Nat × Word), k < j → (WordsOf ws)[j]? = some y → ¬ WordReaches s v y.1 p) → t.stored p = codeword x.2) ∧
  (∀ p, (∀ x ∈ WordsOf ws, ¬ WordReaches s v x.1 p) → t.stored p = s.stored p)

/-- R246, R248, R249, R619: a pushed update command waits in its tile's unit with the tag of its sequence number; an idle unit begins the command whose number comes next, or a repeat, once its waits hold, and takes them; the next number rises by one. It is a no-operation when it names no element or the step takes none, it is refused, with each of its codes raised once, when a refusal condition holds, and otherwise it runs. A command with a higher number than the next, none of them a repeat, stays held, and so does one whose waits do not hold. -/
def Obligations.UpdatesBeginInOrder : Prop :=
  (∀ (s : State) (c : CoreRef) (cmd : UpdateCmd), canPush c s = true → injecting (s.coreUnit c) 7 s = false →
    ∃ t q, exec (.pushCommand c { pushed := .update cmd, residue := false }) s = .next t ∧ (t.uu c.tile.val).held = (s.uu c.tile.val).held ++ [q] ∧ q.cmd = cmd ∧ q.by_ = c ∧
      q.tag = updateTag s c.tile.val cmd.seq ∧ (q.repeated = true ↔ cmd.seq.toNat ∈ (s.uu c.tile.val).received) ∧
      cmd.seq.toNat ∈ (t.uu c.tile.val).received ∧ (t.core c).index = (s.core c).index + 1 ∧ t.mem = s.mem ∧ (∀ v, v ≠ c.tile.val → t.uu v = s.uu v)) ∧
  (∀ (s : State) (v : Fin 4) (q : UQ), (s.uu v.val).running = none → nextUpdate (s.uu v.val) = some q →
    if waitsHold q.cmd.waits (s.core q.by_) = true then
      let s1 := s.modCore q.by_ (takeWaits q.cmd.waits)
      let codes := ((updateRefusals q.cmd q.repeated s1).map (fun x => x.1)).eraseDups
      ∃ t r, exec (.engineBeginCommand (.update v)) s = .next t ∧ (t.uu v.val).running = some r ∧ r.q = q ∧
        (t.uu v.val).held = (s.uu v.val).held.erase q ∧
        (q.repeated = false → q.cmd.seq.toNat = (s.uu v.val).next ∧ (t.uu v.val).next = (s.uu v.val).next + 1) ∧
        (q.repeated = true → (t.uu v.val).next = (s.uu v.val).next) ∧
        (r.noop = true ↔ q.cmd.count = 0 ∨ updateOff v.val q.cmd s = true) ∧ (r.refused = true ↔ r.noop = false ∧ codes ≠ []) ∧
        (r.done = true ↔ r.noop = true ∨ r.refused = true) ∧
        (r.refused = true → (∀ k ∈ codes, k ∈ r.raised) ∧ (t.uu v.val).flags.testBit 4 = true ∧
          (s.mgmt.queue.length + codes.length ≤ 4096 → ∀ k ∈ codes, ∃ z ∈ t.mgmt.queue, z.code = k ∧ z.tag = q.tag.setWidth 64)) ∧
        (r.done = false → q.cmd.phase = .apply → (q.cmd.tensor, q.cmd.first, q.cmd.count) ∈ (t.uu v.val).applied) ∧
        (∀ n : Fin 32, Token t q.by_ n = Token s q.by_ n - amountFor q.cmd.waits n) ∧
        t.mem = s.mem ∧ CoreMemoriesKept s t ∧ (∀ w, w ≠ v.val → t.uu w = s.uu w)
    else exec (.engineBeginCommand (.update v)) s = .next s) ∧
  (∀ (s : State) (v : Fin 4), (∀ q ∈ (s.uu v.val).held, q.repeated = false ∧ (s.uu v.val).next < q.cmd.seq.toNat) →
    exec (.engineBeginCommand (.update v)) s = .next s)

/-- An update unit runs this command and has not carried it out, the step takes it, and no injection is armed. -/
def UnitRuns (s : State) (v : Fin 4) (r : URunning) (phase : Phase) : Prop :=
  (s.uu v.val).running = some r ∧ r.done = false ∧ r.q.cmd.phase = phase ∧ updateOff v.val r.q.cmd s = false ∧ Unarmed s

/-- The running command of a unit is carried out. -/
def UnitDone (t : State) (v : Fin 4) (r : URunning) : Prop :=
  ∃ x, (t.uu v.val).running = some x ∧ x.done = true ∧ x.noop = r.noop ∧ x.refused = r.refused ∧ x.q = r.q

/-- R250, R354: the norm phase adds the partial norm of its range, chunk sums in FP32 added in binary64, to what the unit holds, and writes it to the output buffer and nothing else to the stacks; on a step that a fault made invalid, by what this command reads too, the partial norm is the canonical NaN. No parameter is applied. -/
def NormPhaseSums : Prop :=
  ∀ (s : State) (v : Fin 4) (r : URunning), (s.uu v.val).running = some r → r.done = false → r.q.cmd.phase = .norm → Unarmed s →
    let u := r.q.cmd
    let p := if (updateReads v.val u false noErrs s).stepInvalid then nan64
      else partialNorm ((List.range u.count).map (fun i => stackF32 v.val (u.grad.toNat + 4 * i) s))
    ∃ t, exec (.uuNorm { tile := v, path := false, errs := noErrs }) s = .next t ∧ UnitDone t v r ∧
      (t.uu v.val).norm = toF64 ((f64 (s.uu v.val).norm).add (f64 p)) ∧ (s.stepInvalid = true → p = nan64) ∧
      (t.uu v.val).clip = (s.uu v.val).clip ∧ (t.uu v.val).applied = (s.uu v.val).applied ∧ (∀ w, w ≠ v.val → t.uu w = s.uu w) ∧
      WritesStored s t v.val [(u.out.toNat, leBytes 8 p.toNat)] ∧ t.mem.map = s.mem.map ∧ CoreMemoriesKept s t ∧
      (∀ x, t.step = some x → ∃ y, s.step = some y ∧ x.applied = y.applied ∧ x.skipped = y.skipped)

/-- R252: on a finite S the unit that is to apply takes the clip factor min(1, τ / √S), formed in binary64 and rounded once to FP32, 1 when τ or S is zero, and CLIPPED is set when it is below 1. R253: on any other S the step is skipped with 0x2060 and SKIPPED, its entry is to carry the skipped status, or the program is aborted where its annotation says so, and no memory changes. S stays what it was first. A step that was aborted without S decides nothing. -/
def NormDecision : Prop :=
  ∀ (s : State) (v : Fin 4) (sum : Dword) (st : StepRun), s.step = some st →
    let norm := st.globalNorm.getD sum
    (st.noUpdates = true → exec (.normDecision v sum) s = .next s) ∧
    (st.noUpdates = false → finite64 norm = true →
      ∃ t, exec (.normDecision v sum) s = .next t ∧ t.mem = s.mem ∧ t.mgmt = s.mgmt ∧
        (∃ x, t.step = some x ∧ x.globalNorm = some norm ∧ x.skipped = st.skipped ∧ x.applied = st.applied) ∧
        (∀ r, (s.uu v.val).running = some r → r.q.cmd.phase = .apply →
          let c := clipFactor (stackF32 v.val (r.q.cmd.hyper.toNat + 60) s) norm
          (t.uu v.val).clip = c ∧ ((f32 c).cmp (.num false 1 0) < 0 → (t.uu v.val).flags.testBit 1 = true ∧ bit (t.reg (Off.uuStatus v.val)) 33 = true)) ∧
        ((∀ r, (s.uu v.val).running = some r → r.q.cmd.phase ≠ .apply) → t.units = s.units)) ∧
    (st.noUpdates = false → finite64 norm = false → (s.uu v.val).flags.testBit 0 = false → (∀ r, (s.uu v.val).running = some r → 0x2060 ∉ r.raised) →
      let abort := s.program.any (fun p => p.image.abortNonfinite)
      ∃ t, exec (.normDecision v sum) s = .next t ∧ (t.uu v.val).flags.testBit 0 = true ∧ bit (t.reg (Off.uuStatus v.val)) 32 = true ∧ t.mem = s.mem ∧
        (abort = false ∨ Sparse.wf (fun _ => CoreSt.empty) s.cores = true → CoreMemoriesKept s t) ∧
        (s.mgmt.queue.length < 4096 → ∃ z, t.mgmt.queue = s.mgmt.queue ++ [z] ∧ z.code = 0x2060) ∧
        t.reg (Off.uuCount + 8) = satAdd (s.reg (Off.uuCount + 8)) 1 ∧
        (∃ x, t.step = some x ∧ x.skipped = true ∧ ((if abort then 5 else 1), s.mram.nextSeq) ∈ x.causes ∧ x.applied = st.applied ∧ (abort = true → x.aborted = true)) ∧
        (abort = true → ∀ w, (t.uu w).held = [] ∧ (t.uu w).running = none))

/-- R250, R252 to R254, R354: the partial norm of a unit, and the decision on the norm of the step. -/
def Obligations.NormsDecideTheStep : Prop := NormPhaseSums ∧ NormDecision

/-- What an encoder makes of the lines of a copy, slice by slice. -/
def Slices (v : Nat) (u : UpdateCmd) (byCols : Bool) (val : Nat → Nat → Word) (s : State) : CopyWork :=
  (List.range (((linesOf u byCols).lines + 255) / 256)).foldl (encodeSlice v u byCols val) { s := s, rows := [], rungs := [], forms := [], full := false, faults := [] }

/-- The runs of bytes that an encoder writes to the stacks, in order: elements, scale codes, row scales, saffron rows, rung map and fall-back forms. -/
def EncoderRuns (u : UpdateCmd) (byCols : Bool) (dst : Dword) (x : CopyWork) : List (Nat × List Byte) :=
  let elems := (List.range (qoutPieces u.enc.out)).flatMap (copyElems (writtenLayout u) (fmtWidth (qoutFmt u.enc.out)) (linesOf u byCols) x.rows)
  let scales := x.rows.flatMap (fun r => r.scales.map (fun v => BitVec.ofNat 8 v))
  (if u.phase = .emitResidual then [(dst.toNat, elems ++ scales)] else [(dst.toNat, elems), (u.copyScales.toNat, scales)]) ++
  (if u.enc.rowScale = .dynamic then [(u.copyRowScales.toNat, x.rows.flatMap (fun r => leBytes 4 r.row.toNat))] else []) ++
  (if u.enc.saffron = [] then [] else [(u.saffronOut.toNat, saffronBytes u.enc x.rows)]) ++
  (if u.phase = .emitResidual then [] else [(u.rungMap.toNat, x.rungs), (u.fallback.toNat, x.forms)])

/-- What the encoder of a command leaves beside the stacks (R242, R243, R271): the slices that a fall-back form keeps and those that found no room are counted, and the latter set FALLBACK_FULL and raise 0x2063. -/
def EncoderCounts (s t : State) (v : Fin 4) (r : URunning) (x : CopyWork) : Prop :=
  t.reg (Off.uuCount + 24) = satAdd (s.reg (Off.uuCount + 24)) (x.rungs.filter (fun b => b != 0)).length ∧
  (x.full = true → (t.uu v.val).flags.testBit 2 = true ∧ (0x2063 ∉ r.raised → RaisedAmong s t 0x2063 r.q.tag))

/-- R256, R257: what the microtable leaves of a parameter. It is kept, its old master and its old stored moments, when the table leaves one of the three non-finite, and otherwise takes the master and the codes of the moments that the table leaves. -/
def ParametersKeptOrTaken : Prop :=
  ∀ (t : Nat) (u : UpdateCmd) (tbl : List MicroEntry) (clip : Word) (s : State) (i : Nat),
    let x := (applyParam t u tbl clip none s i).1
    let mb := fmtWidth u.momentFmt / 8
    let m := (runMicro tbl none
      { g := stackF32 t (u.grad.toNat + 4 * i) s, w := stackF32 t (u.master.toNat + 4 * i) s, m1 := momentAt t u u.m1 i s, m2 := momentAt t u u.m2 i s,
        h := (List.range 16).map (fun k => stackF32 t (u.hyper.toNat + 4 * k) s), c := clip, t := toF32 (.ofInt (Int.ofNat u.step.toNat) 0),
        a := List.replicate 8 0 }).1
    (x.kept = true ↔ isNan m.w = true ∨ f32 m.w = .inf true ∨ f32 m.w = .inf false ∨ isNan m.m1 = true ∨ f32 m.m1 = .inf true ∨ f32 m.m1 = .inf false ∨
      isNan m.m2 = true ∨ f32 m.m2 = .inf true ∨ f32 m.m2 = .inf false) ∧
    (x.kept = true → x.w = stackF32 t (u.master.toNat + 4 * i) s ∧ x.m1 = s.stackBytes t (u.m1.toNat + mb * i) mb ∧ x.m2 = s.stackBytes t (u.m2.toNat + mb * i) mb) ∧
    (x.kept = false → x.w = m.w ∧ x.m1 = leBytes mb (momentCode u s 0 i m.m1) ∧ x.m2 = leBytes mb (momentCode u s 1 i m.m2)) ∧
    (u.momentFmt = .fp32 → ∀ k w, momentCode u s k i w = w.toNat) ∧ (∀ k w, u.momentFmt ≠ .fp32 → u.momentRound ≠ .sr →
      momentCode u s k i w = (grid u.momentFmt).encode u.momentRound 0 (f32 w))

/-- The clip factor that an apply takes: that of S where it is known, else what the unit holds (R252). -/
def ClipTaken (s : State) (v : Fin 4) (u : UpdateCmd) (clip : Word) : Prop :=
  (∀ st n, s.step = some st → st.globalNorm = some n → clip = clipFactor (stackF32 v.val (u.hyper.toNat + 60) s) n) ∧
  (∀ st, s.step = some st → st.globalNorm = none → clip = (s.uu v.val).clip)

/-- R249, R252, R256, R257, R271, R487: an apply runs its microtable on every parameter of its range and stores the masters, the moments and what the encoder makes of the masters, in that order, and nothing else in the stacks; it counts the parameters written and kept, and the elements of the copy that changed, marks the step applied, and raises 0x2064 and sets its flag when it kept one. Moments that are no whole words are refused (R276). -/
def AppliesAreWritten : Prop :=
  ∀ (s : State) (v : Fin 4) (r : URunning) (tbl : List MicroEntry), UnitRuns s v r .apply → microtable s r.q.cmd.micro = some tbl →
    let u := r.q.cmd
    fmtWidth u.momentFmt / 8 * u.count % 4 = 0 →
    ∃ t clip, exec (.uuApply v calm false) s = .next t ∧ UnitDone t v r ∧ ClipTaken s v u clip ∧
      let s1 := setClip v.val u (updateReads v.val u false noErrs (markApplied s))
      let ps := (List.range u.count).map (fun i => (applyParam v.val u tbl clip none s i).1)
      let kept := (ps.filter (fun p => p.kept)).length
      let val (i j : Nat) : Word := (nth ps (lineIndex u u.byColumns i j - u.first) { w := 0, m1 := [], m2 := [], kept := false }).w
      let x := Slices v.val u u.byColumns val (applyParams v.val u ps s1)
      WritesStored s t v.val ([(u.master.toNat, ps.flatMap (fun p => leBytes 4 p.w.toNat)), (u.m1.toNat, ps.flatMap (fun p => p.m1)), (u.m2.toNat, ps.flatMap (fun p => p.m2))] ++
        EncoderRuns u u.byColumns u.copy x) ∧
      (∀ y, t.step = some y → y.applied = true) ∧ t.intact = false ∧
      t.reg Off.uuCount = satAdd (s.reg Off.uuCount) (u.count - kept) ∧ t.reg (Off.uuCount + 40) = satAdd (s.reg (Off.uuCount + 40)) kept ∧
      t.reg (Off.uuCount + 16) = satAdd (s.reg (Off.uuCount + 16)) (drift v.val u s t) ∧ EncoderCounts s t v r x ∧
      (kept ≠ 0 → (t.uu v.val).flags.testBit 3 = true ∧ (0x2064 ∉ r.raised → RaisedAmong s t 0x2064 r.q.tag)) ∧
      t.mem.map = s.mem.map ∧ t.mem.replicas = s.mem.replicas

/-- R368, R369: an upset of a microtable's result whose change is no multiple of 3 is found. When the second computation agrees, the apply leaves in the stacks what it leaves without the upset, and 0x2065 is raised and counted in REL_COUNT[3]. When it disagrees, the unit that carried the command out is retired with 0x2066, counted in REL_COUNT[4], and the next unit in service leaves the same results; when none is left, 0x2084 is raised and only the parameters before the struck one are written. -/
def StruckParametersAreRecomputed : Prop :=
  ∀ (s : State) (v : Fin 4) (r : URunning) (tbl : List MicroEntry) (x : Upset) (again : Bool) (w : Nat), UnitRuns s v r .apply →
    microtable s r.q.cmd.micro = some tbl → x.at_ = .element → s.server v.val = some w → (∀ k ∈ [0x2065, 0x2066, 0x2084], k ∉ r.raised) →
    let u := r.q.cmd
    let s1 := setClip v.val u (updateReads v.val u false noErrs (markApplied s))
    let ps := (List.range u.count).map (fun i => (applyParam v.val u tbl (s1.uu v.val).clip none s1 i).1)
    (applyParam v.val u tbl (s1.uu v.val).clip (some (x.row, x.mask.setWidth 32)) s1 x.index).2 % 3 ≠ 0 →
    ∃ t z, exec (.uuApply v { up := some x, errs := noErrs } again) s = .next t ∧ UnitDone t v r ∧ exec (.uuApply v calm false) s = .next z ∧
      (again = false → t.mem.stack = z.mem.stack ∧ t.reg (Off.relCount + 24) = satAdd (s.reg (Off.relCount + 24)) 1 ∧ RaisedAmong s t 0x2065 r.q.tag ∧
        ∀ k, (t.uu k).inService = (s.uu k).inService) ∧
      (again = true → t.reg (Off.relCount + 32) = satAdd (s.reg (Off.relCount + 32)) 1 ∧ RaisedAmong s t 0x2066 r.q.tag ∧
        (∀ k, (t.uu k).inService = (if k = w then false else (s.uu k).inService)) ∧
        ((∃ k < 4, k ≠ w ∧ (s.uu k).inService = true) → t.mem.stack = z.mem.stack) ∧
        ((∀ k < 4, k ≠ w → (s.uu k).inService = false) → RaisedAmong s t 0x2084 r.q.tag ∧ t.sparesOut.isSome = true ∧
          t.mem.stack = (applyParams v.val u (ps.take x.index) s1).mem.stack))

/-- R249, R252, R256, R257, R271, R368, R369: what an apply makes of each parameter, what it stores and counts, and what a residue failure does. -/
def Obligations.ApplyKeepsNonfiniteParameters : Prop := ParametersKeptOrTaken ∧ AppliesAreWritten ∧ StruckParametersAreRecomputed

/-- The instruction of an emission. -/
def EmitInstr (v : Fin 4) : Phase → Instr
  | .emitBackward => .uuEmitBackwardCopy { tile := v, path := false, errs := noErrs }
  | .emitResidual => .uuEmitResidual { tile := v, path := false, errs := noErrs }
  | _ => .uuApply v calm false

/-- R240, R242, R243, R260: an emission encodes the masters as they stand, or the residual of the forward copy from them, stores what the encoder makes and nothing else in the stacks, and applies nothing. -/
def EmissionsAreWritten : Prop :=
  ∀ (s : State) (v : Fin 4) (r : URunning) (phase : Phase), phase = .emitBackward ∨ phase = .emitResidual → UnitRuns s v r phase →
    let u := r.q.cmd
    let s1 := updateReads v.val u false noErrs s
    let val (a b : Nat) : Word :=
      if phase = .emitBackward then stackF32 v.val (u.master.toNat + 4 * (lineIndex u u.byColumns a b - u.first)) s
      else if u.byColumns then residualAt v.val u s b a else residualAt v.val u s a b
    let x := Slices v.val u u.byColumns val s1
    ∃ t, exec (EmitInstr v phase) s = .next t ∧ UnitDone t v r ∧ WritesStored s t v.val (EncoderRuns u u.byColumns u.out x) ∧ EncoderCounts s t v r x ∧
      (phase = .emitResidual → ∀ k ∈ (copyScaleFaults v.val u s).map (fun y => y.1), k ∉ r.raised → RaisedAmong s t k r.q.tag) ∧
      t.reg Off.uuCount = s.reg Off.uuCount ∧ t.reg (Off.uuCount + 40) = s.reg (Off.uuCount + 40) ∧
      (∀ y, t.step = some y → ∃ z, s.step = some z ∧ y.applied = z.applied) ∧ t.intact = s.intact

/-- R53, R253, R369, R425: an apply or an emission that the step leaves without effect is a no-operation: nothing is read, written, counted or raised. -/
def SkippedCommandsDoNothing : Prop :=
  ∀ (s : State) (v : Fin 4) (r : URunning) (errs : ReadErrs) (up : Option Upset) (path again : Bool) (i : Instr),
    (s.uu v.val).running = some r → r.done = false → updateOff v.val r.q.cmd s = true →
    (r.q.cmd.phase = .apply ∧ i = .uuApply v { up := up, errs := errs } again) ∨
      (r.q.cmd.phase = .emitBackward ∧ i = .uuEmitBackwardCopy { tile := v, path := path, errs := errs }) ∨
      (r.q.cmd.phase = .emitResidual ∧ i = .uuEmitResidual { tile := v, path := path, errs := errs }) →
    ∃ t, exec i s = .next t ∧ (∃ x, (t.uu v.val).running = some x ∧ x.done = true ∧ x.noop = true ∧ x.q = r.q) ∧
      (∀ w, w ≠ v.val → t.uu w = s.uu w) ∧ { s with units := t.units } = t

/-- R53, R240, R242, R243, R253, R260, R425: what an emission stores and counts, and a command that the step leaves without effect. -/
def Obligations.EmissionsAndSkippedSteps : Prop := EmissionsAreWritten ∧ SkippedCommandsDoNothing

/-! ### The fabric: links (11) -/

/-- A port that carries flits. -/
def Carries (s : State) (p : Fin 48) : Prop := (s.port p.val).link = .up ∨ (s.port p.val).link = .discovery

/-- A port that would send a control flit at once. -/
def Ready (s : State) (p : Fin 48) : Prop :=
  Carries s p ∧ (s.port p.val).waiting = [] ∧ 0 < (s.port p.val).credit 3 ∧ (s.port p.val).replay.length < 1024

/-- A port sends one more sequenced flit, with its own next number, which is kept for replay. -/
def SendsFlit (s t : State) (p : Fin 48) (f : Flit) : Prop :=
  (t.port p.val).replay = (s.port p.val).replay ++ [f] ∧ f.seq = (s.port p.val).txSeq ∧ flitOk f = true

/-- A control flit of this kind goes to a device, on the port that its message 0 would take (R406, R418), if that port can send at once. -/
def SendsControl (s t : State) (dst : BitVec 16) (kind : Nat) (ok : Flit → Prop) : Prop :=
  ∀ p : Fin 48, portFor 0 dst.toNat s = some p.val → Ready s p →
    ∃ f, SendsFlit s t p f ∧ f.type = 2 ∧ f.dst = dst ∧ byteField f.payload 0 1 = kind ∧ ok f

/-- R396, R397, R401, R402, R423: a flit whose CRC holds. A sequenced one that is the next one is received in any slot of its frame: the next expected number rises, the port answers with an idle flit whose ACK names it, what it acknowledges leaves the replay buffer and the credits it returns are added, its sender has been heard, and a data flit is kept for its message or, the last one, puts the message that the flits spell into the inbox. An idle flit acknowledges and returns credits alone. A flit of a reserved type is left alone (the model's choice, log 145). -/
def FlitsReceivedInSequence : Prop :=
  ∀ (s : State) (p : Fin 48) (f : Flit) (slot : Fin 20), Carries s p → flitOk f = true →
    let x := s.port p.val
    let mine := (if f.first then [] else x.receive.filter (fun g => g.vc == f.vc)) ++ [f]
    let taken (t : State) : Prop :=
      (x.waiting = [] → (t.port p.val).replay = ackedUp f.ack x.replay ∧ (t.port p.val).credit f.credVc.toNat = x.credit f.credVc.toNat + f.credN.toNat) ∧
      (f.src ∈ s.jobPeers → (t.peer f.src).heard = s.now ∧ (t.peer f.src).unanswered = 0) ∧ t.mem = s.mem ∧ t.cores = s.cores ∧ t.mgmt = s.mgmt
    (f.type ∈ [1#4, 2#4, 3#4] → f.seq = x.rxNext →
      ∃ t l g, exec (.flitReceive p f { slot := slot, ok := true }) s = .next t ∧ (t.port p.val).rxNext = f.seq + 1 ∧ (t.port p.val).nacked = false ∧
        t.out = l ++ [.flit p.val g] ∧ g.type = 0 ∧ g.ack = f.seq ∧ flitOk g = true ∧ taken t ∧
        (f.type ≠ 1 → t.fabric.inbox = s.fabric.inbox ∧ (t.port p.val).receive = x.receive) ∧
        (f.type = 1 → f.last = false → t.fabric.inbox = s.fabric.inbox ∧
          (t.port p.val).receive = (if f.first then x.receive.filter (fun g => g.vc != f.vc) else x.receive) ++ [f]) ∧
        (f.type = 1 → f.last = true → (t.port p.val).receive = x.receive.filter (fun g => g.vc != f.vc) ∧
          t.fabric.inbox = s.fabric.inbox ++ (assemble mine).toList)) ∧
    (f.type = 0 → ∃ t, exec (.flitReceive p f { slot := slot, ok := true }) s = .next t ∧ taken t ∧ (t.port p.val).rxNext = x.rxNext ∧
      (t.port p.val).receive = x.receive ∧ t.fabric.inbox = s.fabric.inbox ∧ (x.waiting = [] → t.out = s.out)) ∧
    (f.type ∉ [0#4, 1#4, 2#4, 3#4] → exec (.flitReceive p f { slot := slot, ok := true }) s = .next s)

/-- R398, R441: a flit whose CRC or lanes fail, or that is out of sequence, is discarded: nothing is received, one nack is out that names the last flit received in order, and no second one is sent. A frame with an uncorrectable lane is counted once, at its first slot. A port that carries no flits receives none. -/
def FlitsDiscarded : Prop :=
  ∀ (s : State) (p : Fin 48) (f : Flit) (slot : Fin 20) (ok : Bool),
    (Carries s p → (flitOk f = false ∨ ok = false ∨ (f.type ∈ [1#4, 2#4, 3#4] ∧ f.seq ≠ (s.port p.val).rxNext)) →
      ∃ t, exec (.flitReceive p f { slot := slot, ok := ok }) s = .next t ∧ (t.port p.val).rxNext = (s.port p.val).rxNext ∧
        (t.port p.val).receive = (s.port p.val).receive ∧ t.fabric.inbox = s.fabric.inbox ∧ (t.port p.val).nacked = true ∧
        ((s.port p.val).nacked = true → t.out = s.out ∧ t.fabric = s.fabric) ∧
        ((s.port p.val).nacked = false → Ready s p → ∃ g, SendsFlit s t p g ∧ g.type = 3 ∧ g.ack = (s.port p.val).rxNext - 1) ∧
        t.reg (Off.fabCount + 8) = (if ok = false ∧ slot.val = 0 then satAdd (s.reg (Off.fabCount + 8)) 1 else s.reg (Off.fabCount + 8)) ∧
        t.mem = s.mem ∧ t.cores = s.cores) ∧
    (¬ Carries s p → exec (.flitReceive p f { slot := slot, ok := ok }) s = .next s)

/-- What a replay of the flits `l` does to a port after `k` replays in a row without an advance: all of them are sent again in order with their numbers, or, after eight, the port goes down and leaves service with 0x3002. -/
def Replayed (s t : State) (p : Fin 48) (l : List Flit) (k : Nat) : Prop :=
  if 8 ≤ k then (t.port p.val).link = .down ∧ (t.port p.val).inService = false ∧ (t.port p.val).replay = [] ∧
    (s.mgmt.queue.length < 4096 → ∃ z, t.mgmt.queue = s.mgmt.queue ++ [z] ∧ z.code = 0x3002 ∧ z.unit = unitPort p.val)
  else (t.port p.val).replay = l ∧ (t.port p.val).sentAt = l.map (fun _ => s.now) ∧ (t.port p.val).fruitless = k + 1 ∧ (t.port p.val).link = (s.port p.val).link ∧
    t.out = s.out ++ l.map (fun f => .flit p.val (sealFlit { f with ack := (s.port p.val).lastIn })) ∧
    t.reg Off.fabCount = satAdd (s.reg Off.fabCount) l.length

/-- R399, R400: a nack, and the replay timeout once the oldest unacknowledged flit has waited longer than REPLAY_US since it was sent, replay every unacknowledged flit in order, from the one after the acknowledged number; eight replays in a row without an advance of ACK take the port down at the next. -/
def UnacknowledgedFlitsReplay : Prop :=
  ∀ (s : State) (p : Fin 48), Carries s p →
    (∀ ack : BitVec 12,
      let l := ackedUp ack (s.port p.val).replay
      ∃ t, exec (.nackReceive p ack) s = .next t ∧
        (l = [] → (t.port p.val).replay = [] ∧ t.out = s.out ∧ t.mgmt = s.mgmt) ∧
        (l ≠ [] → Replayed s t p l (if l.length < (s.port p.val).replay.length then 0 else (s.port p.val).fruitless)) ∧
        t.mem = s.mem ∧ t.cores = s.cores ∧ ∀ q : Fin 48, q ≠ p → t.port q.val = s.port q.val) ∧
    (∀ sent rest, (s.port p.val).sentAt = sent :: rest → (s.port p.val).replay ≠ [] →
      if longerThan sent (timerUs 0 8 1 s) s = true then
        ∃ t, exec (.replayTimeout p) s = .next t ∧ Replayed s t p (s.port p.val).replay (s.port p.val).fruitless ∧
          t.mem = s.mem ∧ t.cores = s.cores ∧ ∀ q : Fin 48, q ≠ p → t.port q.val = s.port q.val
      else exec (.replayTimeout p) s = .next s)

/-- R396 to R402, R423, R441: flits are received in sequence or discarded, and those that are not acknowledged are replayed. -/
def Obligations.LinkLayerDelivers : Prop := FlitsReceivedInSequence ∧ FlitsDiscarded ∧ UnacknowledgedFlitsReplay

/-- R401, R403, R404, R411: how a port's state moves: DOWN to TRAINING at a signal; TRAINING to DISCOVERY when its lanes lock, with fresh credits and the device's identity sent, and with 0x3003 for fewer than four, or to FAILED at the timeout; DISCOVERY to UP with its peer's identity; UP to DOWN, out of service, with 0x3001 at a loss of link. In any other state each of them changes nothing. A port that came up with fewer lanes stays so marked until the next job. -/
def PortStatesMove : Prop :=
  ∀ (s : State) (p : Fin 48),
    let x := s.port p.val
    (∃ t, exec (.signalDetect p) s = .next t ∧ if x.link = .down then t = s.setPort p.val { x with link := .training } ∧ (t.port p.val).link = .training else t = s) ∧
    (∀ n, ∃ t, exec (.lanesLocked p n) s = .next t ∧ if x.link = .training then
        (t.port p.val).link = .discovery ∧ (t.port p.val).lanes = n ∧ (t.port p.val).degraded = (decide (n < 4) || (x.degraded && s.program.isSome)) ∧
        t.mem = s.mem ∧ t.cores = s.cores ∧
        (x.waiting = [] → x.replay.length < 1024 → (∀ v : Fin 3, (t.port p.val).credit v.val = nth [256, 128, 128] v.val 0) ∧
          ∃ f, SendsFlit s t p f ∧ f.type = 2 ∧ byteField f.payload 0 1 = 6 ∧ byteField f.payload 4 4 = s.deviceId.toNat ∧ byteField f.payload 8 2 = p.val ∧
            byteField f.payload 10 1 = bits (s.reg (Off.plan p.val)) 48 8) ∧
        (n < 4 → s.mgmt.queue.length < 4096 → ∃ z ∈ t.mgmt.queue, z.code = 0x3003 ∧ z.unit = unitPort p.val) ∧ (4 ≤ n → t.mgmt = s.mgmt)
      else t = s) ∧
    (∃ t, exec (.trainingTimeout p) s = .next t ∧ if x.link = .training then t = s.setPort p.val { x with link := .failed } ∧ (t.port p.val).link = .failed else t = s) ∧
    (∀ sw sp pl, ∃ t, exec (.discovery p sw sp pl) s = .next t ∧ if x.link = .discovery then
        t = s.setPort p.val { x with link := .up, peer := some (sw, sp, pl) } ∧ (t.port p.val).link = .up else t = s) ∧
    (∃ t, exec (.linkLoss p) s = .next t ∧ if x.link = .up then
        (t.port p.val).link = .down ∧ (t.port p.val).inService = false ∧ (t.port p.val).replay = [] ∧ t.mem = s.mem ∧ t.cores = s.cores ∧
        (s.mgmt.queue.length < 4096 → ∃ z, t.mgmt.queue = s.mgmt.queue ++ [z] ∧ z.code = 0x3001 ∧ z.unit = unitPort p.val)
      else t = s)

/-- A host write of a BAR is taken: the function is reachable and in D0, and the access breaks no rule of access. -/
def WriteTaken (s : State) (a : BarAccess) : Prop := s.reachable = true ∧ s.host.d3hot = false ∧ violation a s = none

/-- R411, R412: after the check every port shows its result, a port is in service exactly when it reports Match, DONE is set, every other result but the one of an unused port raises 0x3010, and with fewer ports in service than MIN_PORTS the job has no fabric and 0x3011 is raised. -/
def PlanCheckPlacesMatches : Prop :=
  ∀ (s : State) (v : Dword), WriteTaken s (slotWrite Off.planCtl (v ||| 1)) →
    ∃ t, exec (.fabPlanCheck v) s = .next t ∧
      (∀ p < 48, ((t.port p).plan, (t.port p).partner) = planResult p s ∧ ((t.port p).inService = true ↔ (planResult p s).1 = 1) ∧
        (t.port p).link = (s.port p).link ∧ (t.port p).peer = (s.port p).peer) ∧
      bit (t.reg Off.planCtl) 7 = true ∧ bits (t.reg Off.planCtl) 8 8 = bits v 8 8 ∧
      (t.fabric.noFabric = true ↔ t.inService.length < bits v 8 8) ∧ t.mem = s.mem ∧ t.cores = s.cores ∧
      (s.mgmt.queue.length + 49 ≤ 4096 →
        (∀ p < 48, (planResult p s).1 ≠ 1 → (planResult p s).1 ≠ 6 → ∃ z ∈ t.mgmt.queue, z.code = 0x3010 ∧ z.unit = unitPort p) ∧
        (t.fabric.noFabric = true → ∃ z ∈ t.mgmt.queue, z.code = 0x3011))

/-- R401, R403, R404, R411, R412: the states of a port, and the check of the cabling plan that puts ports into service. -/
def Obligations.PortsAndPlan : Prop := PortStatesMove ∧ PlanCheckPlacesMatches

/-- R432, R433: a timing block gives its port's latency, and on the time port of a device that is not the root the offset ((t2 − t1) − (t4 − t3)) / 2, by which the counter steps the first time and slews later; sixteen exchanges in a row within 2 ns align it. Silence moves the alignment to the other port; an offset that stays too large clears ALIGNED with 0x3040. The root aligns to nothing. -/
def Obligations.TimeAlignment : Prop :=
  ∀ (s : State),
    (∀ (p : Fin 48) (b : TimingBlock),
      let fwd := (b.tRxLast - b.tTxLast).toInt
      let back := (b.arrival - b.tTx).toInt
      let off := Int.tdiv (fwd - back) 2
      ∃ t, exec (.timingBlockReceive p b) s = .next t ∧ (t.port p.val).latency = BitVec.ofInt 32 (Int.tdiv (fwd + back) 2) ∧
        (if isTimePort p.val s then t.clock.offset = BitVec.ofInt 32 off ∧ t.clock.stepped = true ∧
          t.clock.good = (if off.natAbs ≤ 512 then s.clock.good + 1 else 0) ∧ (t.clock.aligned = true ↔ s.clock.aligned = true ∨ 16 ≤ t.clock.good) ∧
          (if s.clock.stepped then t.clock.time = s.clock.time ∧ t.clock.slew = off
           else t.clock.time = BitVec.ofNat 72 ((s.clock.time.toNat : Int) + off).toNat)
        else t.clock = s.clock) ∧ (∀ q : Fin 48, q ≠ p → t.port q.val = s.port q.val) ∧ t.mem = s.mem ∧ t.regs = s.regs) ∧
    (bit (s.reg Off.timeCtl) 0 = false → ∃ t, exec .timePortSilence s = .next t ∧ t.clock.onAlt = true ∧ { s with clock := t.clock } = t ∧ t.clock.time = s.clock.time) ∧
    (bit (s.reg Off.timeCtl) 0 = false → ∃ t, exec .timeOffsetExceeded s = .next t ∧ t.clock.aligned = false ∧ t.clock.time = s.clock.time ∧
      (s.mgmt.queue.length < 4096 → ∃ z, t.mgmt.queue = s.mgmt.queue ++ [z] ∧ z.code = 0x3040) ∧ t.fabric = s.fabric ∧ t.mem = s.mem) ∧
    (bit (s.reg Off.timeCtl) 0 = true → (∀ p b, ∃ t, exec (.timingBlockReceive p b) s = .next t ∧ t.clock = s.clock) ∧
      exec .timePortSilence s = .next s ∧ exec .timeOffsetExceeded s = .next s)

/-! ### The fabric: messages, collectives, liveness (11) -/

/-- The command of the table that receives a message, by its operation (R407). -/
def MsgInstr (m : Msg) : Instr :=
  match m.hdr.op.toNat with
  | 0 => .msgWrite m
  | 1 => .msgReducePartial { msg := m, errs := noErrs }
  | 2 => .msgReducePartial { msg := m, errs := noErrs }
  | 3 => .msgMaxPartial { msg := m, errs := noErrs }
  | 4 => .msgTokenPost m
  | 5 => .msgRemoteReadRequest { msg := m, errs := noErrs }
  | _ => .msgRemoteReadResponse m

/-- A message is acknowledged to its sender with its collective, number and step (R408, R418). -/
def Acknowledges (s t : State) (m : Msg) : Prop :=
  SendsControl s t m.src 5 (fun f => byteField f.payload 4 4 = m.hdr.coll.toNat ∧ byteField f.payload 8 4 = m.hdr.chunk.toNat ∧ byteField f.payload 12 4 = m.hdr.step.toNat)

/-- R408, R409, R425: a message received again is acknowledged and has no other effect; one whose placement epoch is not this rank's current one is dropped, counted and acknowledged, the first of each epoch with 0x0012; one of a step that has ended, or of a collective that was aborted, is acknowledged alone. No memory, no core and no collective changes. -/
def DuplicatesAndStaleMessagesDropped : Prop :=
  ∀ (s : State) (m : Msg),
    let twice : Prop := s.fabric.accepted.contains (msgKey m) = true
    let stale : Prop := s.fabric.accepted.contains (msgKey m) = false ∧ epochCurrent m s = false
    let ended : Prop := s.fabric.accepted.contains (msgKey m) = false ∧ epochCurrent m s = true ∧ m.hdr.op.toNat < 5 ∧ s.step.isSome = true ∧
      (m.hdr.step.toNat < s.stepNo.toNat ∨ s.fabric.aborted.contains m.hdr.coll = true)
    twice ∨ stale ∨ ended →
    ∃ t, exec (MsgInstr m) s = .next t ∧ t.mem = s.mem ∧ t.cores = s.cores ∧ t.fabric.colls = s.fabric.colls ∧ t.fabric.inbox = s.fabric.inbox.erase m ∧
      t.fabric.accepted = s.fabric.accepted ∧ t.fabric.out = s.fabric.out ∧ t.units = s.units ∧ t.step.map (fun x => x.causes) = s.step.map (fun x => x.causes) ∧
      Acknowledges s t m ∧ (¬ stale → t.mgmt = s.mgmt) ∧
      (stale → t.reg (Off.fabCount + 24) = satAdd (s.reg (Off.fabCount + 24)) 1 ∧ t.fabric.dropEpoch = s.rankEpoch s.deviceId ∧
        (s.fabric.dropEpoch ≠ s.rankEpoch s.deviceId → Raised s t 0x0012))

/-- This message is accepted when it comes: not yet accepted, of the current placement epoch, and of the running step, no collective of its name aborted. -/
def Accepts (s : State) (m : Msg) : Prop :=
  s.fabric.accepted.contains (msgKey m) = false ∧ epochCurrent m s = true ∧ s.step.isSome = true ∧ m.hdr.step = s.stepNo ∧
  s.fabric.aborted.contains m.hdr.coll = false

/-- A collective in flight has `n` more elements done and has just made progress (R422). -/
def Advances (s t : State) (num : BitVec 32) (n : Nat) : Prop :=
  ∀ c, s.coll num = some c → ∃ x, t.coll num = some x ∧ x.spec = c.spec ∧ x.done = c.done + n ∧ x.progress = s.now ∧
    x.deadline = BitVec.ofNat 64 (max c.deadline.toNat (s.now.toNat + s.collTicks))

/-- Bytes that the fabric writes at a device address stand there and nowhere else (R292, R371, R407): in the window of a placed core; in the stacks, when they are whole words within one declared allocation; a core that is not placed drops them, which is counted. -/
def FabricStores (s t : State) (a : Dword) (data : List Byte) : Prop :=
  (∀ c k off, addrOf a = .window c k off → off + data.length ≤ spaceSize k → data ≠ [] →
    t.mem.stack = s.mem.stack ∧
    if s.placed c then ((t.core c).mem k).bytes off data.length = data ∧ OnlyBytes s t c k off data.length ∧ ∀ d, d ≠ c → t.core d = s.core d
    else CoreMemoriesKept s t ∧ t.reg (Off.relCount + 56) = satAdd (s.reg (Off.relCount + 56)) 1) ∧
  (∀ n, addrOf a = .stack n → CoreMemoriesKept s t ∧
    WritesStored s t 4 (if n % 4 = 0 ∧ inAllocation s n data.length = true ∧ s.stackLegal n data.length = true then [(n, data)] else []))

/-- R251, R371, R407, R408: what a write or a token post that is accepted does. A write puts its payload at its address and counts its elements toward its collective, or as early bytes of one that has not begun here; the result of the all-reduce of S is S. A token post adds its amount to the core's counter, or is dropped where the core is not placed. Each is acknowledged and is known as accepted from then on. -/
def WritesAndPostsTakeEffect : Prop :=
  ∀ (s : State) (m : Msg), Accepts s m →
    let known (t : State) : Prop := t.fabric.accepted = s.fabric.accepted ++ [msgKey m] ∧ t.fabric.inbox = s.fabric.inbox.erase m ∧ Acknowledges s t m
    (∃ t, exec (.msgWrite m) s = .next t ∧ known t ∧ FabricStores s t m.hdr.address m.payload ∧
      (∀ c, s.coll m.hdr.coll = some c → Advances s t m.hdr.coll (m.payload.length / collWidth c.spec) ∧ t.fabric.early = s.fabric.early ∧
        (c.spec.norm = true → m.hdr.address = c.spec.dst → m.payload ≠ [] →
          ∃ x, t.step = some x ∧ x.globalNorm = some (BitVec.ofNat 64 (byteField m.payload 0 (collWidth c.spec))))) ∧
      (s.coll m.hdr.coll = none → t.fabric.colls = s.fabric.colls ∧ t.fabric.early = s.fabric.early ++ [(m.hdr.coll, m.payload.length)])) ∧
    (∃ t, exec (.msgTokenPost m) s = .next t ∧ known t ∧ t.mem = s.mem ∧ CoreMemoriesKept s t ∧
      (∀ d n, Token t d n = min 65535 (Token s d n +
        match addrOf m.hdr.address with
        | .window c _ _ => if d = c ∧ s.placed c = true ∧ n = byteField m.payload 0 1 % 32 then byteField m.payload 1 1 else 0
        | _ => 0)) ∧
      (∀ d k off, addrOf m.hdr.address = .window d k off → s.placed d = false → byteField m.payload 1 1 ≠ 0 →
        t.reg (Off.relCount + 56) = satAdd (s.reg (Off.relCount + 56)) 1))

/-- R414 to R416, R251: a partial that is accepted, whose elements all have one home, is combined element by element with this rank's own values, one rounding under RNE or the larger value. At the home the results are stored, and an all-reduce sends them to every other rank; elsewhere they go to the next rank, and nothing is stored. The collective counts the elements as done. -/
def PartialsAreCombined : Prop :=
  ∀ (s : State) (m : Msg) (col : Coll) (me h e0 n : Nat),
    Accepts s m → Unarmed s → s.coll m.hdr.coll = some col → ownRank col.spec s = some me →
    let k := col.spec
    let w := collWidth k
    isReduction k.op = true → (m.hdr.address - k.src).toNat / w = e0 → m.payload.length = w * n → m.payload.length ≤ 1048576 → 0 < n → h < k.members.length →
    (homeRange k h).1 ≤ e0 → e0 + n ≤ (homeRange k h).2 →
    (∀ g < k.members.length, g ≠ h → (homeRange k g).2 ≤ e0 ∨ e0 + n ≤ (homeRange k g).1) →
    let own := (ownValues k e0 (e0 + n) s).1
    let data := bytesOf w (((valuesOf w m.payload).zip own).map (fun p => combine k p.1 p.2))
    let sent (x : Outstanding) : BitVec 16 × Byte × Dword × List Byte := (x.dst, x.msg.hdr.op, x.msg.hdr.address, x.msg.payload)
    ∀ i, i = .msgReducePartial { msg := m, errs := noErrs } ∨ i = .msgMaxPartial { msg := m, errs := noErrs } →
    ∃ t l, exec i s = .next t ∧ t.fabric.out = s.fabric.out ++ l ∧ t.fabric.accepted = s.fabric.accepted ++ [msgKey m] ∧ Advances s t m.hdr.coll n ∧
      (∀ x ∈ l, x.msg.hdr.coll = k.num ∧ x.msg.hdr.step = s.stepNo) ∧
      (me = h → FabricStores s t (resultAddr k me e0) data ∧
        l.map sent = (if k.op = .allReduce then ((List.range k.members.length).filter (fun r => r != me)).map (fun r => (rankDev k r s, 0#8, resultAddr k me e0, data)) else []) ∧
        (k.op ≠ .allReduce → Acknowledges s t m) ∧
        (k.norm = true → e0 = 0 → ∃ x, t.step = some x ∧ x.globalNorm = some (BitVec.ofNat 64 (byteField data 0 w)))) ∧
      (me ≠ h → l.map sent = [(rankDev k ((me + 1) % k.members.length) s, partialOp k, k.src + BitVec.ofNat 64 (w * e0), data)] ∧
        t.mem.stack = s.mem.stack ∧ CoreMemoriesKept s t)

/-- R251, R371, R407, R408, R414 to R416: writes, token posts and partials of reductions that are accepted take effect once. -/
def Obligations.MessagesTakeEffect : Prop := WritesAndPostsTakeEffect ∧ PartialsAreCombined

/-- R300, R406, R407 (the form of the messages is the model's, log 26): a remote-read request is answered with the bytes it asks for, in responses of at most 1 MiB to its sender, numbered from 0; a request for no bytes with one empty response. -/
def RequestsAreAnswered : Prop :=
  ∀ (s : State) (m : Msg), s.fabric.accepted.contains (msgKey m) = false → epochCurrent m s = true → Unarmed s →
    let n := byteField m.payload 0 4
    let data := devBytes 4 (m.hdr.address &&& 0x7FFFFFFFFFFF) n s
    ∃ t l, exec (.msgRemoteReadRequest { msg := m, errs := noErrs }) s = .next t ∧ t.fabric.out = s.fabric.out ++ l ∧ l.length = max 1 ((n + 1048575) / 1048576) ∧
      (∀ i < l.length, ∃ x, l[i]? = some x ∧ x.dst = m.src ∧ x.msg.hdr.op = 6 ∧ x.msg.hdr.coll = m.hdr.coll ∧ x.msg.hdr.chunk = BitVec.ofNat 32 i ∧
        x.msg.hdr.step = m.hdr.step ∧ x.msg.payload = (data.drop (1048576 * i)).take 1048576) ∧
      t.fabric.accepted = s.fabric.accepted ++ [msgKey m] ∧ t.cores = s.cores ∧ t.mem.stack = s.mem.stack

/-- R275, R294, R331, R407 (the messages' form is the model's, log 26): a response is kept with the range of the core's read that it answers; the last one writes what the read gathered to its region, at each of its repetitions, or carries the layout copy out, and the command is carried out. A response to a cache fill puts its line into the cache part. -/
def ResponsesAreDelivered : Prop :=
  (∀ (s : State) (m : Msg) (c : CoreRef) (r : Running) (w : RemoteRead),
    s.fabric.accepted.contains (msgKey m) = false → epochCurrent m s = true → (∀ x ∈ s.mem.fetching, x.2 ≠ m.hdr.coll) →
    allCores.find? (fun d => match (s.core d).remote with | some w => wants m.hdr.coll w | none => false) = some c →
    (s.core c).remote = some w → (s.core c).run .stream = some r → r.done = false →
    let got (p : RemotePart) : RemotePart := if p.num = m.hdr.coll then { p with got := p.got ++ [(1048576 * m.hdr.chunk.toNat, m.payload)] } else p
    let y : RemoteRead := { w with parts := w.parts.map got }
    ∃ t, exec (.msgRemoteReadResponse m) s = .next t ∧ t.fabric.accepted = s.fabric.accepted ++ [msgKey m] ∧
      (y.complete = false → (t.core c).remote = some y ∧ (t.core c).run .stream = some r ∧ CoreMemoriesKept s t ∧ t.mem = s.mem) ∧
      (y.complete = true → (t.core c).remote = none ∧ OperationDone t c .stream r ∧
        (∀ a win o n, r.q.cmd.body = .stackRead a win o n ∨ r.q.cmd.body = .remoteRead a o n → t.mem.stack = s.mem.stack ∧ (∀ d, d ≠ c → t.core d = s.core d) ∧
          (suppressed r c o = false → ∀ k < runsOf r.q.cmd, (∀ j, k < j → j < runsOf r.q.cmd → Apart (Moved r k 1) (Moved r j 1) n) →
            (t.core c).opBytes (moveOp o (Moved r k 1)) 0 n = (List.range n).map (fun i => y.byteAt (a + BitVec.ofNat 64 (Moved r k 0) + BitVec.ofNat 64 i)))) ∧
        (∀ desc src dst, r.q.cmd.body = .layout desc src dst →
          let d := copyDesc r.copy
          let ws := if destSuppressed r d.dst dst then [] else d.writes (fun i => y.byteAt (d.src + BitVec.ofNat 64 i))
          t.reg Off.lxCount = satAdd (s.reg Off.lxCount) 1 ∧
          t.reg (Off.lxCount + 16) = satAdd (s.reg (Off.lxCount + 16)) (total (ws.map (fun w => w.2.length))) ∧
          (∀ e m off, addrOf d.dst = .window e m off → s.placed e = true → (∀ w ∈ ws, off + w.1 + w.2.length ≤ spaceSize m) →
            t.mem.stack = s.mem.stack ∧ ∀ i, off + i < spaceSize m → ((t.core e).mem m).byte (off + i) = Overlay ws (fun j => ((s.core e).mem m).byte (off + j)) i)))) ∧
  (∀ (s : State) (m : Msg) (line : Dword × BitVec 32), s.fabric.accepted.contains (msgKey m) = false → epochCurrent m s = true →
    s.mem.fetching.find? (fun x => x.2 == m.hdr.coll) = some line → (∀ x ∈ s.mem.lines, x.2.1 ≠ line.1) →
    ∃ t way, exec (.msgRemoteReadResponse m) s = .next t ∧ (s.lineSet line.1, line.1, way) ∈ t.mem.lines ∧ (∀ x ∈ t.mem.fetching, x.1 ≠ line.1) ∧
      t.fabric.accepted = s.fabric.accepted ++ [msgKey m])

/-- R275, R294, R331, R406, R407 (the messages' form is the model's, log 26): a read of a remote address asks its device, which answers, and the answers carry the read out. -/
def Obligations.RemoteReads : Prop := RemoteReadRequests ∧ RequestsAreAnswered ∧ ResponsesAreDelivered

/-- R408: an acknowledgement takes its message, and no other, off the list of those outstanding; one that has not come for longer than MSG_US makes the device send the message again, on another port in service where there is one, with 0x0020 and a count, and the message stays outstanding. -/
def AcknowledgementsAndRetries : Prop :=
  ∀ (s : State) (dst : BitVec 16) (coll chunk step : BitVec 32),
    let mine (o : Outstanding) : Bool := o.dst == dst && o.msg.hdr.coll == coll && o.msg.hdr.chunk == chunk && o.msg.hdr.step == step
    let late (o : Outstanding) : Bool := mine o && longerThan o.sentAt (timerUs 48 16 200 s) s
    (∃ t, exec (.msgAck dst coll chunk step) s = .next t ∧ t.fabric.out = s.fabric.out.filter (fun o => !mine o) ∧ t.mem = s.mem ∧ t.cores = s.cores ∧
      t.fabric.colls = s.fabric.colls ∧ t.regs = s.regs ∧ t.mgmt = s.mgmt) ∧
    (∀ o, s.fabric.out.find? late = some o →
      ∃ t, exec (.messageAckTimeout dst coll chunk step) s = .next t ∧ t.reg (Off.fabCount + 16) = satAdd (s.reg (Off.fabCount + 16)) 1 ∧
        (s.mgmt.queue.length < 4096 → ∃ z, t.mgmt.queue = s.mgmt.queue ++ [z] ∧ z.code = 0x0020) ∧ t.mem = s.mem ∧ t.cores = s.cores ∧
        (nextPort o.port s = none → t.fabric.out = s.fabric.out) ∧
        (∀ p, nextPort o.port s = some p → p ∈ s.inService ∧ (2 ≤ s.inService.length → p ≠ o.port) ∧
          t.fabric.out = s.fabric.out.map (fun x => if mine x then { x with port := p, sentAt := s.now } else x))) ∧
    (s.fabric.out.find? late = none → exec (.messageAckTimeout dst coll chunk step) s = .next s)

/-- R408, R409, R425: duplicates and stale messages are acknowledged and dropped; an acknowledgement completes its message, and without one the message is sent again. -/
def Obligations.MessagesAcknowledgedOnce : Prop := DuplicatesAndStaleMessagesDropped ∧ AcknowledgementsAndRetries

/-- What an abort leaves of a collective (R424, R425, R427): it is out of flight and known as aborted, with its reason, and no update command of the step runs any more unless the device holds S. -/
def AbortedHere (s t : State) (num : BitVec 32) (reason : Nat) : Prop :=
  t.coll num = none ∧ num ∈ t.fabric.aborted ∧
  ∀ st, s.step = some st → ∃ x, t.step = some x ∧ reason ∈ x.abortReasons ∧ (st.globalNorm = none → x.noUpdates = true) ∧ (st.globalNorm.isSome = true → x.noUpdates = st.noUpdates)

/-- R418 to R420, R423: a probe is answered on its port with its counter; a reply restarts the peer's timer; a peer of the job that has been silent for PROBE_US, with no probe out, is probed with the device's counter; a probe that has gone unanswered for 20 µs is repeated, and the third in a row declares the peer lost with 0x3020 and aborts the collectives shared with it with reason 1. -/
def ProbesTellLostPeers : Prop :=
  ∀ (s : State) (d : BitVec 16), d ∈ s.jobPeers →
    let probes (t : State) (n : Nat) : Prop :=
      (t.peer d).unanswered = n ∧ (t.peer d).probed = some s.now ∧ (t.peer d).lost = false ∧ t.mem = s.mem ∧ t.cores = s.cores ∧ t.mgmt = s.mgmt ∧
        SendsControl s t d 1 (fun f => byteField f.payload 8 8 = s.now.toNat)
    (∀ (p : Fin 48) (k : Dword), ∃ t, exec (.probe p d k) s = .next t ∧ (t.peer d).heard = s.now ∧ (t.peer d).unanswered = 0 ∧ t.mem = s.mem ∧ t.cores = s.cores ∧
      (Ready s p → ∃ f, SendsFlit s t p f ∧ f.type = 2 ∧ f.dst = d ∧ byteField f.payload 0 1 = 2 ∧ byteField f.payload 8 8 = k.toNat)) ∧
    (∀ k, ∃ t, exec (.probeReply d k) s = .next t ∧ (t.peer d).heard = s.now ∧ (t.peer d).probed = none ∧ (t.peer d).unanswered = 0 ∧ t.mem = s.mem ∧
      t.cores = s.cores ∧ t.regs = s.regs) ∧
    ((s.peer d).lost = false → (s.peer d).probed = none →
      if (s.peer d).heard.toNat + us (timerUs 8 8 10 s) ≤ s.now.toNat then ∃ t, exec (.peerSilence d) s = .next t ∧ probes t 0
      else exec (.peerSilence d) s = .next s) ∧
    (∀ sent, (s.peer d).lost = false → (s.peer d).probed = some sent →
      if sent.toNat + us 20 ≤ s.now.toNat then
        ((s.peer d).unanswered < 2 → ∃ t, exec (.probeUnanswered d) s = .next t ∧ probes t ((s.peer d).unanswered + 1)) ∧
        (2 ≤ (s.peer d).unanswered → ∃ t, exec (.probeUnanswered d) s = .next t ∧ (t.peer d).lost = true ∧ t.mem = s.mem ∧ CoreMemoriesKept s t ∧ Raised s t 0x3020 ∧
          ∀ num ∈ sharedWith d s, AbortedHere s t num 1)
      else exec (.probeUnanswered d) s = .next s)

/-- R421, R422: a beacon without STOPPED moves the deadline of each shared collective to at least its arrival plus its delay plus COLL_US, as far as PACE_MAX_US allows; one with STOPPED extends nothing; one from outside the job is counted. While a stop or a delay calls for it, the device sends a beacon to each device with which a collective is in flight, and counts each. -/
def BeaconsExtendDeadlines : Prop :=
  (∀ (s : State) (src : BitVec 16) (stopped : Bool) (cause : Byte) (delay step : BitVec 32),
    ∃ t, exec (.beacon src stopped cause delay step) s = .next t ∧ t.mem = s.mem ∧ t.cores = s.cores ∧ t.mgmt = s.mgmt ∧
      (src ∉ s.jobPeers → t.fabric = s.fabric ∧ t.reg (Off.fabCount + 48) = satAdd (s.reg (Off.fabCount + 48)) 1) ∧
      (src ∈ s.jobPeers → (t.peer src).heard = s.now) ∧
      (src ∈ s.jobPeers → stopped = true → t.fabric.colls = s.fabric.colls) ∧
      (src ∈ s.jobPeers → stopped = false → ∀ c ∈ s.fabric.colls,
        if c.spec.num ∈ sharedWith src s then
          (s.fabric.colls.filter (fun x => x.spec.num == c.spec.num)).length = 1 →
          extendDeadline (s.now.toNat + us delay.toNat + s.collTicks) (us (bits (s.act Off.timers) 32 16)) c ∈ t.fabric.colls
        else c ∈ t.fabric.colls)) ∧
  (∀ (c : Coll) (want cap : Nat), c.extended ≤ cap → c.deadline.toNat + cap < 2 ^ 64 →
    let x := extendDeadline want cap c
    x.extended ≤ cap ∧ c.deadline.toNat ≤ x.deadline.toNat ∧ (want ≤ x.deadline.toNat ∨ x.extended = cap) ∧ x.spec = c.spec ∧ x.done = c.done) ∧
  (∀ (s : State) (delay : BitVec 32) (cause : Byte),
    let devs := ((s.fabric.colls.flatMap (fun c => (List.range c.spec.members.length).map (fun r => rankDev c.spec r s))).filter (fun d => d != s.deviceId)).eraseDups
    if s.fabric.stopped = true ∨ 0 < delay.toNat then
      (s.reg (Off.fabCount + 32)).toNat + devs.length < 2 ^ 64 →
      ∃ t, exec (.beaconInterval delay cause) s = .next t ∧ (t.reg (Off.fabCount + 32)).toNat = (s.reg (Off.fabCount + 32)).toNat + devs.length ∧
        (∀ d, devs = [d] → SendsControl s t d 3 (fun f => byteField f.payload 1 1 = flag s.fabric.stopped ∧ byteField f.payload 2 1 = cause.toNat ∧
          byteField f.payload 4 4 = delay.toNat ∧ byteField f.payload 8 4 = s.stepNo.toNat)) ∧
        t.mem = s.mem ∧ t.cores = s.cores ∧ t.fabric.colls = s.fabric.colls
    else exec (.beaconInterval delay cause) s = .next s)

/-- R418 to R423: probes find lost peers, and beacons extend the deadlines of the collectives they share. -/
def Obligations.LivenessAndPace : Prop := ProbesTellLostPeers ∧ BeaconsExtendDeadlines

/-- R422, R424 to R427, R430: an abort takes its collective out of flight, posts its tokens, and keeps every update command of the step from running unless the device holds S. A passed deadline aborts with reason 2 and 0x3032; an ABORT for the current step from a peer of the job, the step's first, with 0x0022 alone and the step's status; any other is counted; an abort timer that runs out with a stack still stopped aborts every collective of the step with 0x3030. -/
def Obligations.AbortsEndCollectives : Prop :=
  ∀ (s : State) (st : StepRun), s.step = some st →
    (∀ num c, s.coll num = some c →
      if c.deadline.toNat ≤ s.now.toNat then
        ∃ t, exec (.collectiveDeadline num) s = .next t ∧ AbortedHere s t num 2 ∧ t.mem = s.mem ∧ CoreMemoriesKept s t ∧ Raised s t 0x3032 ∧
          t.reg (Off.fabCount + 40) = satAdd (s.reg (Off.fabCount + 40)) 1 ∧
          ∀ d, s.placed d = true → ∀ n, Token t d n = min 65535 (Token s d n + amountFor ((c.spec.posts.filter (fun x => x.1 == d)).map (fun x => x.2)) n)
      else exec (.collectiveDeadline num) s = .next s) ∧
    (∀ src reason num step,
      if src ∈ s.jobPeers ∧ step = st.number ∧ st.abortReasons = [] then
        ∃ t, exec (.abortControlFlit src reason num step) s = .next t ∧ AbortedHere s t num reason.toNat ∧ t.mem = s.mem ∧ CoreMemoriesKept s t ∧
          (s.coll num = none → s.mgmt.queue.length < 4096 → ∃ z, t.mgmt.queue = s.mgmt.queue ++ [z] ∧ z.code = 0x0022) ∧ Raised s t 0x0022 ∧
          ∃ x, t.step = some x ∧ ((if reason = 3 then 7 else 4), s.mram.nextSeq) ∈ x.causes
      else
        ∃ t, exec (.abortControlFlit src reason num step) s = .next t ∧ t.fabric.colls = s.fabric.colls ∧ t.step = s.step ∧ t.mem = s.mem ∧ t.mgmt = s.mgmt ∧
          t.reg (Off.fabCount + 48) = satAdd (s.reg (Off.fabCount + 48)) 1) ∧
    (∀ at_, s.fabric.stopped = true → s.fabric.abortTimer = some at_ →
      if at_.toNat ≤ s.now.toNat then
        ∃ t, exec .hotStackAbortTimeout s = .next t ∧ t.fabric.abortTimer = none ∧ (∀ c ∈ s.fabric.colls, AbortedHere s t c.spec.num 0) ∧
          (s.fabric.colls ≠ [] → Raised s t 0x3030) ∧ t.mem = s.mem ∧ CoreMemoriesKept s t
      else exec .hotStackAbortTimeout s = .next s)

/-- The first messages of a collective at a rank, with their destinations, addresses and payloads (R414, R415, R417): of a reduction, its own values of the elements whose home is the rank before it. -/
def FirstMessages (k : CollSpec) (me : Nat) (s : State) : List (BitVec 16 × Dword × List Byte) :=
  let w := collWidth k
  let n := w * k.count
  let others := (List.range k.members.length).filter (fun r => r != me)
  let mine := k.dst + BitVec.ofNat 64 (n * me)
  match k.op with
  | .allGather => others.map (fun d => (rankDev k d s, mine, devBytes 4 k.src n s))
  | .broadcast => if me = k.root then others.map (fun d => (rankDev k d s, k.dst, devBytes 4 k.src n s)) else []
  | .allToAll =>
    let own := fabricStore mine (devBytes 4 (k.src + BitVec.ofNat 64 (n * me)) n s) s
    others.map (fun d => (rankDev k d s, mine, devBytes 4 (k.src + BitVec.ofNat 64 (n * d)) n own))
  | .transfer => if me = 0 then [(rankDev k 1 s, k.dst, devBytes 4 k.src n s)] else []
  | _ =>
    let h := (me + k.members.length - 1) % k.members.length
    let e := homeRange k h
    if me = h ∨ e.2 ≤ e.1 then []
    else [(rankDev k ((me + 1) % k.members.length) s, k.src + BitVec.ofNat 64 (w * e.1), bytesOf w (ownValues k e.1 e.2 s).1)]

/-- R413 to R415, R417, R420, R424, R425: a collective that this device takes part in begins in the running step: it is in flight with its deadline, and its first messages are outstanding, each payload here at most 1 MiB long. One with a lost peer is aborted with reason 1 instead, one that was aborted before only posts its tokens, and one of another group, or with no step, changes nothing. -/
def CollectivesBegin : Prop :=
  ∀ (s : State) (k : CollSpec), Unarmed s →
    let start : Instr := .collectiveStart { spec := k, errs := noErrs }
    (ownRank k s = none ∨ s.step = none → exec start s = .next s) ∧
    (∀ me, ownRank k s = some me → s.step.isSome = true → s.fabric.aborted.contains k.num = true →
      ∃ t, exec start s = .next t ∧ t.fabric.colls = s.fabric.colls ∧ t.fabric.out = s.fabric.out ∧ t.mem = s.mem ∧ CoreMemoriesKept s t ∧
        ∀ d, s.placed d = true → ∀ n, Token t d n = min 65535 (Token s d n + amountFor ((k.posts.filter (fun x => x.1 == d)).map (fun x => x.2)) n)) ∧
    (∀ me, ownRank k s = some me → s.step.isSome = true → s.fabric.aborted.contains k.num = false → s.coll k.num = none →
      ((∃ r < k.members.length, (s.peer (rankDev k r s)).lost = true) →
        ∃ t, exec start s = .next t ∧ AbortedHere s t k.num 1 ∧ Raised s t 0x3031 ∧ t.mem = s.mem) ∧
      ((∀ r < k.members.length, (s.peer (rankDev k r s)).lost = false) → (∀ x ∈ FirstMessages k me s, x.2.2.length ≤ 1048576) →
        ∃ t x l, exec start s = .next t ∧ t.coll k.num = some x ∧ x.spec = k ∧ x.progress = s.now ∧
          x.deadline = BitVec.ofNat 64 (s.now.toNat + s.collTicks) ∧ t.fabric.out = s.fabric.out ++ l ∧
          l.map (fun y => (y.dst, y.msg.hdr.address, y.msg.payload)) = FirstMessages k me s ∧
          ∀ y ∈ l, y.msg.hdr.coll = k.num ∧ y.msg.hdr.step = s.stepNo ∧ y.msg.hdr.srcRank = BitVec.ofNat 16 me))

/-- R33, R58, R66, R415: a collective whose target is reached completes, leaves flight, posts its tokens and shows its mark; R263, R264: a bucket is launched as a collective once the last of its blocks has closed, not before, and the next bucket is then the one to launch. -/
def CollectivesCompleteAndLaunch : Prop :=
  (∀ (s : State) (num : BitVec 32) (c : Coll) (me : Nat), s.coll num = some c → ownRank c.spec s = some me →
    if collTarget c.spec me ≤ c.done then
      ∃ t, exec (.collectiveComplete num) s = .next t ∧ t.coll num = none ∧ t.mem = s.mem ∧ CoreMemoriesKept s t ∧
        (c.spec.mark = .value → bit (t.reg Off.detStatus) 0 = true) ∧
        (∀ d, s.placed d = true → ∀ n, Token t d n =
          min 65535 (Token s d n + amountFor ((c.spec.posts.filter (fun x => x.1 == d)).map (fun x => x.2)) n))
    else exec (.collectiveComplete num) s = .next s) ∧
  (∀ (s : State) (p : Program) (r : StepRun), s.program = some p → s.step = some r →
    (p.image.buckets[r.launched]? = none → exec .bucketLaunch s = .next s) ∧
    (∀ b, p.image.buckets[r.launched]? = some b → Unarmed s →
      if ∀ x ∈ b.blocks, x ∈ r.closed then
        ∃ t, exec .bucketLaunch s = .next t ∧ (∃ x, t.step = some x ∧ x.launched = r.launched + 1) ∧
          exec (.collectiveStart { spec := b.coll, errs := noErrs }) { s with step := some { r with launched := r.launched + 1 } } = .next t
      else exec .bucketLaunch s = .next s))

/-- R414: the homes of the elements of an all-reduce follow one another and cover them all. -/
def HomesCoverElements : Prop :=
  ∀ (k : CollSpec), k.op = .allReduce → 0 < k.members.length →
    (homeRange k 0).1 = 0 ∧ (homeRange k (k.members.length - 1)).2 = k.count ∧
    ∀ h, h + 1 < k.members.length → (homeRange k h).2 = (homeRange k (h + 1)).1 ∧ (homeRange k h).1 ≤ (homeRange k h).2

/-- R33, R58, R66, R263, R264, R413 to R415, R417, R420, R424: collectives begin and complete, buckets launch, and the homes of an all-reduce. -/
def Obligations.CollectivesBeginAndComplete : Prop := CollectivesBegin ∧ CollectivesCompleteAndLaunch ∧ HomesCoverElements

/-! ### The fabric: Ethernet, injections (11) -/

/-- An entry reaches a completion ring: written to host memory, held there, or discarded by a ring that is disabled. -/
def EntryPosted (t : State) (q : Nat) (e : Entry) : Prop :=
  (∃ a ph, Out.host a (entryBytes e ph) ∈ t.out) ∨ e ∈ (t.cq q).held ∨ (t.cq q).enabled = false

/-- The descriptor at the head of a ring ends with a status: it leaves the ring, and its entry, with its cookie and the SEQ of the record that set the status, reaches the ring's completion ring. -/
def DescEnds (s t : State) (r : Fin 16) (d : Desc) (status : BitVec 16) (seq : Word) : Prop :=
  (t.sq r.val).fetched <:+ (s.sq r.val).fetched.tail ∧
  ∃ e, e.status = status ∧ e.cookie.toNat = bits d.raw 32 32 ∧ e.firstSeq = seq ∧ e.sq.toNat = r.val ∧ EntryPosted t (s.cqOf r.val) e

/-- A descriptor names an address that the device does not permit (R466): the address status, 0x4005, and no memory changed. -/
def AddressRefused (s t : State) (r : Fin 16) (d : Desc) : Prop := DescEnds s t r d 0x11 s.mram.nextSeq ∧ Raised s t 0x4005 ∧ t.mem = s.mem

/-- The request of a descriptor to host memory failed (R450): the host-access status, 0x4010 or 0x4011, and no memory changed. -/
def HostFailed (s t : State) (r : Fin 16) (d : Desc) (timeout : Bool) : Prop :=
  DescEnds s t r d 0x19 s.mram.nextSeq ∧ Raised s t (if timeout then 0x4011 else 0x4010) ∧ t.mem = s.mem

/-- The command that takes a bulk frame, by its type (R438). -/
def FrameInstr (e : Fin 2) (f : BulkFrame) : Instr :=
  if f.type = 3 then .ethReadReq e { frame := f, errs := noErrs } else if f.type = 5 then .ethMessage e f else .ethBulkWrite e f

/-- The reason for which a frame of a known session is refused, if it is (R439): malformed, beyond the window, a wrong CRC, or of a type that the device does not take. -/
def RefusalReason (f : BulkFrame) (x : Session) : Option Byte :=
  if frameBad f x then some 4
  else if f.type ≠ 5 ∧ x.len.toNat < f.offset.toNat + f.length.toNat then some 1
  else if f.crc ≠ crc32c f.payload then some 2
  else if f.type = 1 ∨ f.type = 3 ∨ f.type = 5 then none
  else some 4

/-- R437 to R440, R479: what the device does with a bulk frame of an open session on a port that is up. A WRITE is stored and acknowledged with a frame of type 2; a READ_REQ is answered with the bytes of the window; a MESSAGE goes to the oldest pooled buffer, whose descriptor completes, or is dropped and counted; a frame with a reason against it is answered with a NACK of that reason, stores nothing, and raises 0x3050 once per session and step. -/
def FramesOfSessions : Prop :=
  ∀ (s : State) (e : Fin 2) (f : BulkFrame) (x : Session), s.ethUp e.val = true → sessionOf e.val f s = some x →
    (∀ reason, RefusalReason f x = some reason →
      ∃ t, exec (FrameInstr e f) s = .next t ∧ t.mem = s.mem ∧ t.cores = s.cores ∧ Out.eth e.val f.peer 6 f.session f.offset f.seq reason [] ∈ t.out ∧
        (x.refusedIn ≠ some s.stepNo → Raised s t 0x3050) ∧ (x.refusedIn = some s.stepNo → t.mgmt = s.mgmt)) ∧
    (RefusalReason f x = none →
      (f.type = 1 → ∃ t l, exec (FrameInstr e f) s = .next t ∧ t.out = l ++ [.eth e.val f.peer 2 f.session f.offset f.seq 0 []] ∧
        t.reg (Off.fabCount + 72) = satAdd (s.reg (Off.fabCount + 72)) f.payload.length ∧ WritesStored s t 4 [((x.base + f.offset).toNat, f.payload)] ∧
        t.mem.map = s.mem.map ∧ t.cores = s.cores ∧ t.step = s.step) ∧
      (f.type = 3 → Unarmed s → ∃ t l, exec (FrameInstr e f) s = .next t ∧
        t.out = l ++ [.eth e.val f.peer 4 f.session f.offset f.seq 0 (s.stackBytes 4 (x.base + f.offset).toNat f.length.toNat)] ∧
        t.mem.stack = s.mem.stack ∧ t.cores = s.cores ∧ t.step = s.step) ∧
      (f.type = 5 → ∃ t, exec (FrameInstr e f) s = .next t ∧ t.mem = s.mem ∧ t.cores = s.cores ∧
        t.reg (Off.fabCount + 72) = satAdd (s.reg (Off.fabCount + 72)) f.payload.length ∧
        (s.host.pool = [] → t.reg (Off.hifCount + 32) = satAdd (s.reg (Off.hifCount + 32)) 1 ∧ t.out = s.out) ∧
        (∀ r d rest, s.host.pool = (r, d) :: rest → t.host.pool = rest ∧
          Out.host (BitVec.ofNat 64 (bits d.raw 64 64)) (bulkHeader f ++ f.payload) ∈ t.out ∧
          ∃ y, y.status = 0 ∧ y.kind = 3 ∧ y.cookie.toNat = bits d.raw 32 32 ∧ y.detail.toNat = (bulkHeader f ++ f.payload).length % 2 ^ 32 ∧
            EntryPosted t (s.cqOf r.val) y)))

/-- R437, R439, R554: a frame of no open session is counted, and answered with reason 3 at most once in 1 ms for its source; one that is no bulk frame is counted; a port that is down takes none. A port goes up when it is enabled for the job, and goes down. -/
def OtherFramesAndPorts : Prop :=
  ∀ (s : State) (e : Fin 2) (f : BulkFrame),
    (s.ethUp e.val = true → sessionOf e.val f s = none →
      let recent := s.eth.nacks.any (fun x => x.1 == f.peer && decide (s.now.toNat < x.2.toNat + 1000000))
      ∃ t, exec (FrameInstr e f) s = .next t ∧ t.reg (Off.fabCount + 64) = satAdd (s.reg (Off.fabCount + 64)) 1 ∧ t.mem = s.mem ∧ t.mgmt = s.mgmt ∧
        t.out = s.out ++ (if recent then [] else [.eth e.val f.peer 6 f.session f.offset f.seq 3 []])) ∧
    (s.ethUp e.val = true →
      ∃ t, exec (.ethFrameDiscard e) s = .next t ∧ t.reg (Off.fabCount + 64) = satAdd (s.reg (Off.fabCount + 64)) 1 ∧ t.mem = s.mem ∧ t.out = s.out) ∧
    (s.ethUp e.val = false → exec (FrameInstr e f) s = .next s ∧ exec (.ethFrameDiscard e) s = .next s) ∧
    (if bit (s.inJob (Off.ethCtl e.val)) 0 = true ∧ s.mgmt.boot = .ready then
      ∃ t, exec (.ethernetPortUp e) s = .next t ∧ t.ethUp e.val = true ∧ (∀ g : Fin 2, g ≠ e → t.ethUp g.val = s.ethUp g.val) ∧ { s with eth := t.eth } = t
    else exec (.ethernetPortUp e) s = .next s) ∧
    (∃ t, exec (.ethernetPortDown e) s = .next t ∧ t.ethUp e.val = false ∧ (∀ g : Fin 2, g ≠ e → t.ethUp g.val = s.ethUp g.val) ∧ { s with eth := t.eth } = t)

/-- R437 to R440, R479, R554: what the device does with the frames that come to an Ethernet port, and how a port goes up and down. -/
def Obligations.EthernetFramesServed : Prop := FramesOfSessions ∧ OtherFramesAndPorts

/-- R381, R436: a host write that arms an injection is taken while no program is loaded or the loaded one carries the test annotation; otherwise it is ignored with 0x6010 and the register keeps its value. -/
def InjectionsArmOnlyInTestJobs : Prop :=
  ∀ (s : State),
    (∀ v : Dword, WriteTaken s (slotWrite Off.fabInject (v ||| 1)) →
      ∃ t, exec (.fabInjectArm v) s = .next t ∧ t.mem = s.mem ∧ t.cores = s.cores ∧
        if mayInject s then t.reg Off.fabInject = (v ||| 1) &&& BitVec.ofNat 64 (writeMask Off.fabInject) ∧ t.fabric.injectSeen = 0 ∧ t.mgmt = s.mgmt
        else t.reg Off.fabInject = s.reg Off.fabInject ∧ Raised s t 0x6010) ∧
    (∀ v : Word, WriteTaken s (slotWrite Off.injectCtl (v.setWidth 64 ||| 1)) →
      ∃ t, exec (.cmpInjectArm v) s = .next t ∧ t.mem = s.mem ∧ t.cores = s.cores ∧
        if mayInject s then t.reg Off.injectCtl = (v.setWidth 64 ||| 1) &&& BitVec.ofNat 64 (writeMask Off.injectCtl) ∧ t.mgmt = s.mgmt
        else t.reg Off.injectCtl = s.reg Off.injectCtl ∧ Raised s t 0x6010)

/-! ### The host interface (12) -/

/-- R451 to R457, R596: a write that sets EN of a submission ring gives it the state of its checks, with head and tail zero, and one that clears EN disables it and leaves what it has fetched; a completion ring is enabled empty, with phase 1, or marks the ring's status as badly configured; disabling it discards and counts the entries it holds. A write that leaves EN as it was leaves the ring as it was. -/
def RingsEnableAndDisable : Prop :=
  ∀ (s : State) (r : Fin 16) (v : Dword),
    (WriteTaken s (slotWrite (Off.sqCfg r.val) (v ||| 1)) →
      ∃ t, exec (.sqEnable r v) s = .next t ∧ t.reg (Off.sqCfg r.val) = (v ||| 1) &&& BitVec.ofNat 64 (writeMask (Off.sqCfg r.val)) ∧
        (bit (s.reg (Off.sqCfg r.val)) 0 = true → t.sq r.val = s.sq r.val) ∧
        (bit (s.reg (Off.sqCfg r.val)) 0 = false →
          (t.sq r.val).state = (if entriesOk (t.sqEntries r.val) = false then .badConfig
            else if bits (t.reg (Off.sqCfg r.val)) 8 8 ≤ 1 ∧ 1 ≤ bits (t.reg (Off.sqCfg r.val)) 16 8 then .enabled else .noVersion) ∧
          (t.sq r.val).head = 0 ∧ (t.sq r.val).tail = 0 ∧ (t.sq r.val).fetched = (s.sq r.val).fetched) ∧
        (∀ q, q ≠ r.val → t.sq q = s.sq q) ∧ t.mem = s.mem ∧ t.out = s.out) ∧
    (WriteTaken s (slotWrite (Off.sqCfg r.val) (v &&& ~~~1#64)) →
      ∃ t, exec (.sqDisable r v) s = .next t ∧ t.sq r.val = { s.sq r.val with state := .disabled } ∧ (∀ q, q ≠ r.val → t.sq q = s.sq q) ∧
        t.mem = s.mem ∧ t.out = s.out) ∧
    (WriteTaken s (slotWrite (Off.cqCfg r.val) (v ||| 1)) →
      ∃ t, exec (.cqEnable r v) s = .next t ∧ t.mem = s.mem ∧ t.out = s.out ∧
        if bit (s.reg (Off.cqCfg r.val)) 0 then t.cq r.val = s.cq r.val
        else if entriesOk (t.cqEntries r.val) then
          (t.cq r.val).enabled = true ∧ (t.cq r.val).phase = true ∧ (t.cq r.val).head = 0 ∧ (t.cq r.val).tail = 0 ∧ (t.cq r.val).used = 0 ∧ (t.cq r.val).held = []
        else t.cq r.val = s.cq r.val ∧ (t.sq r.val).state = .badConfig) ∧
    (WriteTaken s (slotWrite (Off.cqCfg r.val) (v &&& ~~~1#64)) →
      ∃ t, exec (.cqDisable r v) s = .next t ∧ t.mem = s.mem ∧ t.out = s.out ∧
        if bit (s.reg (Off.cqCfg r.val)) 0 then (t.cq r.val).enabled = false ∧ (t.cq r.val).held = [] ∧
          t.reg (Off.hifCount + 24) = satAdd (s.reg (Off.hifCount + 24)) (s.cq r.val).held.length
        else t.cq r.val = s.cq r.val)

/-- The ring halts for an invalid doorbell value: it fetches no more, its tail and completion head stay, and 0x4002 is raised. -/
def RingHalted (s t : State) (r : Nat) : Prop :=
  (t.sq r).state = .halted ∧ (t.sq r).stopped = true ∧ (t.sq r).tail = (s.sq r).tail ∧ (t.cq r).head = (s.cq r).head ∧ Raised s t 0x4002

/-- R459 to R463, R486, R595: a doorbell value below the ring's number of slots, its upper half zero, moves the tail or the completion head, a pair of them both; any other value halts the ring with 0x4002, and of a pair neither half takes effect. Slots that a completion head releases are free again. -/
def DoorbellsMoveRings : Prop :=
  ∀ (s : State) (r : Fin 16),
    (∀ v : Word, WriteTaken s (bellWrite (4096 * r.val) 4 (v.setWidth 64)) →
      ∃ t, exec (.sqTail r v) s = .next t ∧ t.mem = s.mem ∧
        if bellBad v (s.sqEntries r.val) then RingHalted s t r.val
        else t.sq r.val = { s.sq r.val with tail := v } ∧ t.mgmt = s.mgmt ∧ t.out = s.out) ∧
    (∀ v : Word, WriteTaken s (bellWrite (4096 * r.val + 4) 4 (v.setWidth 64)) →
      ∃ t, exec (.cqHead r v) s = .next t ∧ t.mem = s.mem ∧
        if bellBad v (s.cqEntries r.val) then RingHalted s t r.val
        else (t.cq r.val).head = v ∧ t.sq r.val = s.sq r.val ∧ t.mgmt = s.mgmt ∧
          ((s.cq r.val).held = [] → (t.cq r.val).used =
            (s.cq r.val).used - (bits v 0 16 + s.cqEntries r.val - bits (s.cq r.val).head 0 16) % max (s.cqEntries r.val) 1)) ∧
    (∀ v : Dword, WriteTaken s (bellWrite (4096 * r.val) 8 v) →
      ∃ t, exec (.doorbellPairWrite r v) s = .next t ∧ t.mem = s.mem ∧
        if bellBad (BitVec.ofNat 32 (bits v 0 32)) (s.sqEntries r.val) || bellBad (BitVec.ofNat 32 (bits v 32 32)) (s.cqEntries r.val) then RingHalted s t r.val
        else (t.sq r.val).tail.toNat = bits v 0 32 ∧ (t.cq r.val).head.toNat = bits v 32 32 ∧ t.mgmt = s.mgmt)

/-- R451 to R463, R486, R595, R596: the rings are enabled and disabled, and doorbells move their tails and heads. -/
def Obligations.RingsAndDoorbells : Prop := RingsEnableAndDisable ∧ DoorbellsMoveRings

/-- R12, R456, R460, R464, R465, R626: a ring that may fetch takes up the slots between its head and its tail in order, one descriptor a slot or, of a layout copy, two, and its head moves past them; a malformed descriptor that comes to the head of its ring, its copy descriptor's reserved fields among what it is judged by (log 110), completes with 0x0010 and 0x4003, but a LOAD_PROGRAM waits to be judged in its own order. A ring that may not fetch is left as it is. -/
def Obligations.DescriptorsFetched : Prop :=
  ∀ (s : State) (r : Fin 16) (slots : List (BitVec 512)), slots.length ≤ outstandingSlots r.val s →
    let ended (t : State) (x : BitVec 512) : Prop :=
      ∃ e, (t.sq r.val).fetched = [] ∧ e.status = 0x10 ∧ e.cookie.toNat = bits x 32 32 ∧ e.firstSeq = s.mram.nextSeq ∧ EntryPosted t (s.cqOf r.val) e ∧
        Raised s t 0x4003 ∧ t.mem = s.mem
    if mayFetch r.val s then
      ((∀ x ∈ slots, bits x 0 8 ≠ 5 ∧ (descBad (s.sq r.val).version x = false ∨ (bits x 0 8 = 1 ∧ slots = [x]))) → (∀ d ∈ (s.sq r.val).fetched, d.bad = false) →
        ∃ t ds, exec (.descriptorFetch r slots) s = .next t ∧ (t.sq r.val).fetched = (s.sq r.val).fetched ++ ds ∧ ds.map (fun d => d.raw) = slots ∧
          (∀ d ∈ ds, d.bad = descBad (s.sq r.val).version d.raw ∧ d.begun = false) ∧ (t.host.fetchNo = s.host.fetchNo + slots.length) ∧
          (slots ≠ [] → s.sqEntries r.val ≤ 65536 → (t.sq r.val).head.toNat = ((s.sq r.val).head.toNat + slots.length) % max (s.sqEntries r.val) 1) ∧
          t.mgmt = s.mgmt ∧ t.mem = s.mem ∧ t.out = s.out) ∧
      (∀ x, slots = [x] → (s.sq r.val).fetched = [] → bits x 0 8 ≠ 1 → bits x 0 8 ≠ 5 → descBad (s.sq r.val).version x = true →
        ∃ t, exec (.descriptorFetch r slots) s = .next t ∧ ended t x) ∧
      (∀ x y, slots = [x, y] → (s.sq r.val).fetched = [] → bits x 0 8 = 5 →
        if descBad (s.sq r.val).version x = true ∨ (copyDesc y).reservedSet = true then ∃ t, exec (.descriptorFetch r slots) s = .next t ∧ ended t x
        else ∃ t d, exec (.descriptorFetch r slots) s = .next t ∧ (t.sq r.val).fetched = [d] ∧ d.raw = x ∧ d.raw2 = y ∧ d.bad = false ∧ d.begun = false ∧
          t.mgmt = s.mgmt ∧ t.mem = s.mem ∧ t.out = s.out)
    else exec (.descriptorFetch r slots) s = .next s

/-- R445, R448 to R450: a violating access is answered with Unsupported Request or Completer Abort, counted, captured in HIF_ERR_ADDR while HIF_ERR_INFO.VALID is 0, and raised as 0x4001, and touches no memory; in D3hot every access is answered with Unsupported Request. A request to host memory that is refused, or a read without an answer, ends the descriptor at the head of its ring with the host-access status, 0x4010 or 0x4011; one of a running step is raised and ends none. -/
def Obligations.ViolationsAndHostFailures : Prop :=
  (∀ (s : State) (a : BarAccess), s.reachable = true →
    (∀ x, s.host.d3hot = false → violation a s = some x →
      ∃ t, exec (.violatingAccess a) s = .next t ∧
        (match x with | .unsupported => Out.unsupported a.write | .abort => .completerAbort a.write) ∈ t.out ∧
        t.reg (Off.hifCount + 8) = satAdd (s.reg (Off.hifCount + 8)) 1 ∧ bit (t.reg Off.errInfo) 0 = true ∧
        t.reg Off.errAddr = (if bit (s.reg Off.errInfo) 0 then s.reg Off.errAddr else BitVec.ofNat 64 a.offset) ∧
        Raised s t 0x4001 ∧ t.mem = s.mem ∧ t.cores = s.cores) ∧
    (s.host.d3hot = true → exec (.violatingAccess a) s = .next (s.emit (.unsupported a.write))) ∧
    (s.host.d3hot = false → violation a s = none → exec (.violatingAccess a) s = .next s)) ∧
  (∀ (s : State) (r : Fin 16) (addr : Dword) (timeout : Bool),
    let i : Instr := if timeout then .hostReadTimeout r addr else .hostRequestError r addr
    (s.linkUp = false → exec i s = .next s) ∧
    (∀ d rest, s.linkUp = true → (s.sq r.val).fetched = d :: rest → d.bad = false →
      ∃ t, exec i s = .next t ∧ t.cores = s.cores ∧
        if d.begun then t.host.sqs = s.host.sqs ∧ Raised s t (if timeout then 0x4011 else 0x4010) ∧ t.mem = s.mem else HostFailed s t r d timeout))

/-- R445, R446, R491: the link goes on with one module and 0x4020; with none, every fetched descriptor and pooled buffer ends with the host-access status and 0x4021 is raised; when it returns, the entries held meanwhile are written where their rings have room. A coalescing timeout and an unmasking send the vector's message, or the timeout notes it in the pending bit while the vector is masked. The function leaves D3hot. -/
def Obligations.LinkAndInterrupts : Prop :=
  ∀ (s : State),
    (∀ m : Fin 2, ∃ t, exec (.ucieModuleLost m) s = .next t ∧
      if s.host.modules = 2 then t.host.modules = 1 ∧ Raised s t 0x4020 ∧ t.mem = s.mem ∧ t.cores = s.cores else t = s) ∧
    (s.linkUp = true → ∃ t, exec .ucieLinkDown s = .next t ∧ t.linkUp = false ∧ Raised s t 0x4021 ∧ t.host.pool = [] ∧ t.mem = s.mem ∧ t.cores = s.cores ∧
      (∀ r : Fin 16, (t.sq r.val).fetched = [] ∧ ∀ d ∈ (s.sq r.val).fetched, ∃ e, e.status = 0x19 ∧ e.cookie.toNat = bits d.raw 32 32 ∧ e.sq.toNat = r.val ∧
        EntryPosted t (s.cqOf r.val) e) ∧
      (∀ x ∈ s.host.pool, ∃ e, e.status = 0x19 ∧ e.cookie.toNat = bits x.2.raw 32 32 ∧ e.sq.toNat = x.1.val ∧ EntryPosted t (s.cqOf x.1.val) e)) ∧
    (∀ m : Fin 3, s.linkUp = false → m.val ≠ 0 → s.mgmt.boot = .ready ∨ s.mgmt.boot = .recovery →
      ∃ t, exec (.ucieLinkReturn m) s = .next t ∧ t.host.modules = m.val ∧ t.mem = s.mem ∧ t.mgmt = s.mgmt ∧
        ∀ q < 16, (s.cq q).enabled = true → (s.cq q).used + (s.cq q).held.length ≤ s.cqEntries q →
          (t.cq q).held = [] ∧ (t.cq q).used = (s.cq q).used + (s.cq q).held.length) ∧
    (∀ q : Fin 16,
      if (s.cq q.val).since ≠ 0 ∧ s.linkUp = true then
        let v := bits (s.reg (Off.cqCfg q.val)) 3 5
        ∃ t, exec (.coalesceTimeout q) s = .next t ∧ t.cq q.val = { s.cq q.val with since := 0 } ∧
          if (s.vec v).masked then (t.vec v).pending = true ∧ t.out = s.out else t.out = s.out ++ [.msix v (s.vec v).addr (s.vec v).data] ∧ t.vec v = s.vec v
      else exec (.coalesceTimeout q) s = .next s) ∧
    (∀ v : Fin 32, s.reachable = true → s.host.d3hot = false →
      ∃ t, exec (.msixVectorUnmask v) s = .next t ∧ t.vec v.val = { s.vec v.val with masked := false, pending := false } ∧
        t.out = s.out ++ (if (s.vec v.val).pending then [.msix v.val (s.vec v.val).addr (s.vec v.val).data] else [])) ∧
    (exec .d3hotExit s = .next { s with host := { s.host with d3hot := false } })

/-- A sanitize operation has begun: the rings are fenced by it, what waited is cancelled, no collective is in flight, no turn is armed, and with no step running the program is gone; a running step runs on. -/
def SanitizeBegun (s t : State) (b : SanitizeBy) (skip : Option (Fin 16)) : Prop :=
  t.host.sanitizing = some b ∧ t.host.pool = [] ∧ t.fabric.colls = [] ∧ bit (t.reg Off.turnCtl) 0 = false ∧
  (∀ q : Fin 16, skip ≠ some q → ∀ x ∈ (t.sq q.val).fetched, x.begun = true) ∧
  (∀ q : Fin 16, skip ≠ some q → ∀ x ∈ (s.sq q.val).fetched, x.begun = false → ∃ e, e.status = 0x1A ∧ e.cookie.toNat = bits x.raw 32 32 ∧ EntryPosted t (s.cqOf q.val) e) ∧
  (∀ x ∈ s.host.pool, ∃ e, e.status = 0x1A ∧ e.cookie.toNat = bits x.2.raw 32 32 ∧ EntryPosted t (s.cqOf x.1.val) e) ∧
  (s.step = none → t.program = none) ∧ (s.step.isSome = true → t.program = s.program ∧ ∃ x, t.step = some x ∧ 3 ∈ x.abortReasons)

/-- R445, R484, R492: a SANITIZE that may begin, a Function Level Reset and the entry into D3hot each begin a sanitize operation, where none is under way; from D3hot entry on the function is in D3hot. A Function Level Reset during an operation makes it end as one. -/
def SanitizeBegins : Prop :=
  ∀ (s : State),
    (∀ (r : Fin 16) (d : Desc), readyHead r.val 8 s = some d → ∃ t, exec (.sanitize r) s = .next t ∧ SanitizeBegun s t (.ring r) (some r)) ∧
    (s.reachable = true → s.host.sanitizing = none → ∃ t, exec .functionLevelReset s = .next t ∧ SanitizeBegun s t .flr none) ∧
    (s.reachable = true → s.host.sanitizing.isSome = true →
      exec .functionLevelReset s = .next { s with host := { s.host with sanitizing := some .flr } }) ∧
    (s.reachable = true → s.host.d3hot = false → ∃ t, exec .d3hotEntry s = .next t ∧ t.host.d3hot = true ∧
      (s.host.sanitizing = none → SanitizeBegun s t .d3hot none) ∧
      (s.host.sanitizing.isSome = true → t = { s with host := { s.host with d3hot := true } }))

/-- R492, R594: when the gesso fill of a sanitize operation is done, every stack and core-local memory reads as zero, the counters of the job are zero, no session, rank table or ledger entry of it is left, the cleared next-job values are in force, and the operation ends: a SANITIZE descriptor completes with success, and a Function Level Reset leaves every ring at its reset. It waits for a running step and for a stopped stack. -/
def SanitizeErasesTheJob : Prop :=
  ∀ (s : State) (b : SanitizeBy), s.host.sanitizing = some b →
    (s.step.isSome = true ∨ stackStopped s = true → exec .gessoFillDone s = .next s) ∧
    (s.step = none → stackStopped s = false →
      ∃ t, exec .gessoFillDone s = .next t ∧ t.host.sanitizing = none ∧ t.mem.stack = [] ∧ (∀ c, t.core c = CoreSt.empty) ∧
        (∀ a ∈ jobCounters, ∀ n < a.2, t.reg (a.1 + 8 * n) = 0) ∧ t.eth.sessions = [] ∧ t.fabric.rankActive = [] ∧ t.fabric.colls = [] ∧
        t.power.ledger = [] ∧ t.job = jobFrom (s.regs.filter (fun x => !inArrays (jobCounters ++ jobStatus) x.1)) s.job ∧
        (b = .flr → ∀ q, (t.sq q).state = .disabled ∧ (t.sq q).fetched = [] ∧ (t.cq q).enabled = false) ∧
        (∀ r d rest, b = .ring r → (s.sq r.val).fetched = d :: rest → d.op = 8 → DescEnds s t r d 0 noSeq))

/-- R445, R484, R492, R594: a sanitize operation begins, and at its end nothing of the job is left. -/
def Obligations.SanitizeOperation : Prop := SanitizeBegins ∧ SanitizeErasesTheJob

/-! ### Descriptors (12, 13) -/

/-- R464, R467, R472, R478 to R481, R585: what a NOP, an UNLOAD, the session descriptors, a message buffer, a rank table and an ABORT do at the head of their ring once they may begin, and the status with which each of them ends. An UNLOAD waits for a running step, a message buffer for room in the pool, and a rank table for a shadow set that is neither frozen nor being refilled. -/
def Obligations.DescriptorsTakeEffect : Prop :=
  ∀ (s : State) (r : Fin 16) (d : Desc),
    (readyHead r.val 0 s = some d → ∃ t, exec (.nop r) s = .next t ∧ DescEnds s t r d 0 noSeq ∧ t.mem = s.mem ∧ t.cores = s.cores ∧ t.program = s.program) ∧
    (s.step.isSome = true → exec (.unload r) s = .next s) ∧
    (readyHead r.val 2 s = some d → s.step = none →
      ∃ t, exec (.unload r) s = .next t ∧ t.mem = s.mem ∧
        (namedProgram d s = none → DescEnds s t r d 0x17 noSeq ∧ t.program = s.program ∧ t.cores = s.cores) ∧
        (∀ p, namedProgram d s = some p → DescEnds s t r d 0 noSeq ∧ t.program = none ∧ t.eth.sessions = [] ∧ Sparse.look (fun _ => 0) t.sec.meas 3 = 0 ∧
          ∀ c, (t.core c).tokens = [] ∧ (t.core c).regions = [] ∧ (t.core c).palettes = [] ∧ (t.core c).placeEpoch = 0)) ∧
    (readyHead r.val 9 s = some d →
      let id := BitVec.ofNat 32 (bits d.raw 64 32)
      let base : Dword := BitVec.ofNat 64 (bits d.raw 128 64)
      let len := bits d.raw 192 64
      let fits := s.inCapacity base.toNat len && s.inScratch base.toNat len
      let full := decide (64 ≤ s.eth.sessions.length) || s.eth.sessions.any (fun y => y.id == id)
      ∃ t, exec (.sessionOpen r) s = .next t ∧ t.mem = s.mem ∧
        if len = 0 then DescEnds s t r d 0x12 noSeq ∧ t.eth = s.eth
        else if fits = false then AddressRefused s t r d ∧ t.eth = s.eth
        else if full then DescEnds s t r d 0x18 noSeq ∧ t.eth = s.eth
        else DescEnds s t r d 0 noSeq ∧ ∃ x, t.eth.sessions = s.eth.sessions ++ [x] ∧ x.id = id ∧ x.base = base ∧ x.len.toNat = len ∧ x.port = bits d.raw 96 8 ∧
          x.peer.toNat = bits d.raw 256 128 ∧ x.refusedIn = none) ∧
    (readyHead r.val 10 s = some d →
      let id := BitVec.ofNat 32 (bits d.raw 64 32)
      ∃ t, exec (.sessionClose r) s = .next t ∧ t.mem = s.mem ∧ t.eth.sessions = s.eth.sessions.filter (fun y => y.id != id) ∧
        DescEnds s t r d (if s.eth.sessions.any (fun y => y.id == id) then 0 else 0x18) noSeq) ∧
    (readyHead r.val 11 s = some d →
      ∃ t, exec (.messageBuffer r) s = .next t ∧ t.mem = s.mem ∧
        if bits d.raw 128 32 < 8224 then DescEnds s t r d 0x12 noSeq ∧ t.host.pool = s.host.pool
        else if 256 ≤ s.host.pool.length then t = s
        else t.host.pool = s.host.pool ++ [(r, d)] ∧ (t.sq r.val).fetched <:+ (s.sq r.val).fetched.tail) ∧
    (∀ read, if s.frozen = true ∨ s.mgmt.refilling = true then exec (.rankTable r read) s = .next s
      else readyHead r.val 12 s = some d →
        (bits d.raw 128 32 = 0 → ∃ t, exec (.rankTable r read) s = .next t ∧ DescEnds s t r d 0x12 noSeq ∧ t.fabric = s.fabric) ∧
        (0 < bits d.raw 128 32 →
          (∀ a, read = .error a → ∃ t, exec (.rankTable r read) s = .next t ∧ HostFailed s t r d false ∧ t.fabric = s.fabric) ∧
          (∀ a, read = .timeout a → ∃ t, exec (.rankTable r read) s = .next t ∧ HostFailed s t r d true ∧ t.fabric = s.fabric) ∧
          (∀ bs, read = .ok bs → bs.length = 8 * bits d.raw 128 32 →
            ∃ t, exec (.rankTable r read) s = .next t ∧ DescEnds s t r d 0 noSeq ∧ t.fabric.rankShadow = rankEntries bs ∧
              t.fabric.rankActive = (if s.program.isNone then rankEntries bs else s.fabric.rankActive) ∧ t.mem = s.mem))) ∧
    (readyHead r.val 13 s = some d →
      ∃ t, exec (.abort r) s = .next t ∧ DescEnds s t r d 0 noSeq ∧ t.mem = s.mem ∧
        if ∃ x, s.step = some x ∧ x.number.toNat = bits d.raw 96 32 then t.fabric.colls = [] ∧ (∀ c ∈ s.fabric.colls, AbortedHere s t c.spec.num 3) ∧
          (s.fabric.colls ≠ [] → Raised s t 0x3033)
        else t.fabric.colls = s.fabric.colls ∧ t.step = s.step)

/-- R466, R467, R473, R276: a TRANSFER of nothing succeeds; one whose address the device does not permit ends with the address status; one to the host delivers the bytes of the stacks, and one into the scratch part stores the bytes that the host returned, or ends with the host-access status. -/
def TransfersMoveBytes : Prop :=
  ∀ (s : State) (r : Fin 16) (d : Desc) (read : HostRead), readyHead r.val 4 s = some d → Unarmed s →
    let i : Instr := .transfer r { read := read, errs := noErrs }
    let h : Dword := BitVec.ofNat 64 (bits d.raw 64 64)
    let a : Dword := BitVec.ofNat 64 (bits d.raw 128 64)
    let n := bits d.raw 192 32
    let legal := hostRange a n s && h.toNat % 4 == 0 && (bit d.raw 224 || s.inScratch a.toNat n)
    (n = 0 → ∃ t, exec i s = .next t ∧ DescEnds s t r d 0 noSeq ∧ t.mem = s.mem) ∧
    (n ≠ 0 → legal = false → ∃ t, exec i s = .next t ∧ AddressRefused s t r d) ∧
    (n ≠ 0 → legal = true → bit d.raw 224 = true →
      ∃ t, exec i s = .next t ∧ DescEnds s t r d 0 noSeq ∧ Out.host h (s.stackBytes 4 a.toNat n) ∈ t.out ∧ t.mem.stack = s.mem.stack) ∧
    (n ≠ 0 → legal = true → bit d.raw 224 = false →
      (∀ bs, read = .ok bs → bs.length = n → ∃ t, exec i s = .next t ∧ DescEnds s t r d 0 noSeq ∧ WritesStored s t 4 [(a.toNat, bs)]) ∧
      (∀ x, read = .error x → ∃ t, exec i s = .next t ∧ HostFailed s t r d false) ∧
      (∀ x, read = .timeout x → ∃ t, exec i s = .next t ∧ HostFailed s t r d true))

/-- R474, R328 to R339, R346, R347, R466: a layout copy of nothing is counted and succeeds; one outside the current capacity ends with the address status; one with a refusal condition raises each code once, changes no memory, and ends with the address status for 0x2072 and the layout status for any other; any other copy writes every run of its descriptor and counts itself and its bytes. -/
def HostCopiesMoveBits : Prop :=
  ∀ (s : State) (r : Fin 16) (d : Desc) (c : CoreRef), readyHead r.val 5 s = some d → Unarmed s →
    let k := copyDesc d.raw2
    let stacked (a : Dword) : Bool := match addrOf a with | .stack x => s.inCapacity x 1 | _ => false
    let codes := copyRefusals false none none k s
    let ws := k.writes (fun i => devByte c.tile.val (k.src + BitVec.ofNat 64 i) s)
    ∃ t, exec (.layoutCopy r { core := c, errs := noErrs }) s = .next t ∧
      if k.zero then DescEnds s t r d 0 noSeq ∧ t.reg Off.lxCount = satAdd (s.reg Off.lxCount) 1 ∧ t.mem = s.mem
      else if stacked k.src = false ∨ stacked k.dst = false then AddressRefused s t r d
      else if codes = [] then
        DescEnds s t r d 0 noSeq ∧ t.reg Off.lxCount = satAdd (s.reg Off.lxCount) 1 ∧
        t.reg (Off.lxCount + 16) = satAdd (s.reg (Off.lxCount + 16)) (total (ws.map (fun w => w.2.length))) ∧
        (∀ x, addrOf k.dst = .stack x → x % 4 = 0 → (s.entryFor c.tile.val (x / stripeBytes)).state = .mapped →
          (∀ w ∈ ws, w.1 % 4 = 0 ∧ x % stripeBytes + w.1 + w.2.length ≤ stripeBytes) →
          ∀ i, x % stripeBytes + i < stripeBytes → t.stackByte c.tile.val (x + i) = Overlay ws (fun j => s.stackByte c.tile.val (x + j)) i)
      else DescEnds s t r d (if 0x2072 ∈ codes.map (fun x => x.1) then 0x11 else 0x1B) s.mram.nextSeq ∧ t.mem = s.mem ∧
        t.reg (Off.lxCount + 8) = satAdd (s.reg (Off.lxCount + 8)) 1 ∧
        (s.mgmt.queue.length + codes.length ≤ 4096 → ∀ x ∈ codes, ∃ z ∈ t.mgmt.queue, z.code = x.1 ∧ z.tag = (copyTag c).setWidth 64)

/-- R475 to R477, R520, R522: the parts of a checkpoint wait for a running step; without a program they end with the no-program status, of no length with success, and with an address that is not permitted with the address status. A saved part is delivered, to the host or to the stacks, as the stream has it once its reads have been made; a restored part is kept with those before it, and with a shape that is not the device's it is refused with 0x4030; the part that completes the stream puts it into the stacks, and any step number may follow. -/
def CheckpointsMoveParts : Prop :=
  ∀ (s : State) (r : Fin 16) (d : Desc) (read : HostRead), Unarmed s →
    let save : Instr := .ckptSave { ring := r, errs := noErrs }
    let load : Instr := .ckptRestore r { read := read, errs := noErrs }
    let f := ckptFields d
    (s.step.isSome = true → exec save s = .next s ∧ exec load s = .next s) ∧
    (∀ i ok, (readyHead r.val 6 s = some d ∧ i = save ∧ ok = true) ∨ (readyHead r.val 7 s = some d ∧ i = load ∧ ok = false) → s.step = none →
      (s.program = none → ∃ t, exec i s = .next t ∧ DescEnds s t r d 0x17 noSeq ∧ t.mem = s.mem) ∧
      (s.program.isSome = true → f.2.2.1 = 0 → ∃ t, exec i s = .next t ∧ DescEnds s t r d 0 noSeq ∧ t.mem = s.mem) ∧
      (s.program.isSome = true → f.2.2.1 ≠ 0 → ckptAddrOk ok d s = false → ∃ t, exec i s = .next t ∧ AddressRefused s t r d)) ∧
    (∀ p, readyHead r.val 6 s = some d → s.step = none → s.program = some p → f.2.2.1 ≠ 0 → ckptAddrOk true d s = true →
      let bytes := streamPart p f.2.1 f.2.2.1 (asideRead 0 4 ((allSections p s).flatMap secRanges) noErrs s)
      ∃ t, exec save s = .next t ∧ t.program = s.program ∧ DescEnds s t r d 0 noSeq ∧
        (f.2.2.2 = false → Out.host f.1 bytes ∈ t.out ∧ t.mem.stack = s.mem.stack) ∧ (f.2.2.2 = true → WritesStored s t 4 [(f.1.toNat, bytes)])) ∧
    (∀ p bs, readyHead r.val 7 s = some d → s.step = none → s.program = some p → f.2.2.1 ≠ 0 → ckptAddrOk false d s = true →
      (f.2.2.2 = false ∧ read = .ok bs ∧ bs.length = f.2.2.1) ∨ (f.2.2.2 = true ∧ bs = s.stackBytes 4 f.1.toNat f.2.2.1) →
      let other := BitVec.ofNat 64 (bits d.raw 256 64) ≠ s.shape
      let torn := f.2.1 = 0 ∧ 16 ≤ bs.length ∧ byteField bs 8 8 ≠ s.shape.toNat
      let old := match s.host.restore with | some x => x.parts | none => []
      (other ∨ (torn ∧ f.2.2.2 = false) → ∃ t, exec load s = .next t ∧ DescEnds s t r d 0x14 s.mram.nextSeq ∧ Raised s t 0x4030 ∧ t.mem = s.mem) ∧
      (¬ other → ¬ torn → ∃ t x, exec load s = .next t ∧ DescEnds s t r d 0 noSeq ∧ t.host.restore = some x ∧ x.parts = old ++ [(f.2.1, bs)] ∧
        x.complete = x.covers ∧ (x.complete = false → t.mem.stack = s.mem.stack ∧ t.last = s.last) ∧
        (x.complete = true → t.last = none ∧ t.goodStep = some (BitVec.ofNat 32 (x.field 16 4)) ∧ t.mem.stack = (applyRestore x p s).mem.stack))) ∧
    (∀ p a, readyHead r.val 7 s = some d → s.step = none → s.program = some p → f.2.2.1 ≠ 0 → ckptAddrOk false d s = true → f.2.2.2 = false →
      BitVec.ofNat 64 (bits d.raw 256 64) = s.shape →
      (read = .error a → ∃ t, exec load s = .next t ∧ HostFailed s t r d false) ∧ (read = .timeout a → ∃ t, exec load s = .next t ∧ HostFailed s t r d true))

/-- R276, R466, R467, R473 to R477, R520, R522: descriptors that move data between the host, the stacks and a checkpoint stream. -/
def Obligations.DescriptorsMoveData : Prop := TransfersMoveBytes ∧ HostCopiesMoveBits ∧ CheckpointsMoveParts

/-- R44, R435, R468, R470, R483, R561, R626: LOAD_PROGRAM makes its checks in order, and the first that fails gives the status and the record of its descriptor; an image that passes them all is loaded, with token counters zero, regions open at epoch 0, its digest in M3 and the stacks as they were. A RUN_STEP that may begin starts the step its STEP names, or ends with the no-program, restore-incomplete or step-order status; it waits for a running step, a confirmation test, an earlier step and the launch. At the launch time, and not before, the program begins. -/
def Obligations.ProgramsLoadAndRun : Prop :=
  ∀ (s : State),
    (∀ (r : Fin 16) (d : Desc) (read : ImageRead), readyHead r.val 1 s = some d → s.confirming = false →
      ∃ t, exec (.loadProgram r read) s = .next t ∧ t.mem = s.mem ∧
        if s.program.isSome then DescEnds s t r d 0x17 noSeq ∧ t.program = s.program
        else if d.bad then DescEnds s t r d 0x10 s.mram.nextSeq ∧ Raised s t 0x4003 ∧ t.program = none
        else match read with
          | .error _ => HostFailed s t r d false ∧ t.program = none
          | .timeout _ => HostFailed s t r d true ∧ t.program = none
          | .ok i seed => match imageRefusal i s with
            | some x => DescEnds s t r d x.1 s.mram.nextSeq ∧ Raised s t x.2 ∧ t.program = none
            | none => DescEnds s t r d 0 noSeq ∧ (∃ p, t.program = some p ∧ p.image = i ∧ p.seed = seed ∧ p.id.toNat = bits d.raw 320 12) ∧
                (∀ c, (t.core c).tokens = [] ∧ (t.core c).queues = [] ∧ ∀ m id g, (t.core c).region m id = some g → g.epoch = 0 ∧ g.owner = none) ∧
                Sparse.look (fun _ => 0) t.sec.meas 3 =
                  sha256 (leBytes 32 (Sparse.look (fun _ => 0) s.sec.meas 3).toNat ++ leBytes 32 (sha256 i.bytes).toNat)) ∧
    (∀ (r : Fin 16), s.step.isSome = true ∨ s.confirming = true → exec (.runStep r) s = .next s) ∧
    (∀ (r : Fin 16) (d : Desc), readyHead r.val 3 s = some d → s.step = none → s.confirming = false →
      let n := BitVec.ofNat 32 (bits d.raw 96 32)
      let partly := match s.host.restore with | some x => !x.complete | none => false
      ∃ t, exec (.runStep r) s = .next t ∧ t.mem = s.mem ∧ t.cores = s.cores ∧
        if earlierStep d s then t = s
        else match namedProgram d s with
        | none => DescEnds s t r d 0x17 noSeq ∧ t.step = none
        | some p =>
          if partly then DescEnds s t r d 0x16 noSeq ∧ t.step = none
          else if stepOrderOk n s = false then DescEnds s t r d 0x15 noSeq ∧ t.step = none
          else if p.begun = false then t = s
          else (∃ x, t.step = some x ∧ x.number = n ∧ x.ring = r ∧ x.applied = false ∧ x.records = 0 ∧ x.causes = [] ∧ x.globalNorm = none ∧
              (x.replay = true ↔ ∃ l, s.last = some l ∧ l.number = n)) ∧ t.out = s.out ∧
            ∃ y rest, (t.sq r.val).fetched = y :: rest ∧ (s.sq r.val).fetched = d :: rest ∧ y = { d with begun := true }) ∧
    (∀ p at_, s.program = some p → p.launch = some at_ →
      if at_.toNat ≤ s.now.toNat ∧ p.begun = false then exec .launch s = .next { s with program := some { p with begun := true } }
      else exec .launch s = .next s)

/-! ### Steps, reliability and the log (10, 13, 14) -/

/-- R41, R44, R269, R295, R470, R487 to R489, R546: once every core and update unit is idle the step ends. Its RUN_STEP completes with the status that R489 selects, the SEQ of the record that set it, and APPLIED; its ledger entry holds its measurements; and at the boundary every queue is empty, every token counter 0, every region at epoch 0 and open, and the cache part empty. A step with work left goes on, and without a step nothing happens. -/
def Obligations.StepsEnd : Prop :=
  ∀ (s : State) (m : StepMeasure), (s.step = none → exec (.stepEnd m) s = .next s) ∧ ∀ r : StepRun, s.step = some r →
    (allIdle s = false → exec (.stepEnd m) s = .next s) ∧
    (allIdle s = true → ∃ t, exec (.stepEnd m) s = .next t ∧ t.step = none ∧ t.mem.lines = [] ∧
      (s.host.sanitizing = none → t.program = s.program ∧ t.last = some { number := r.number, applied := r.applied, ended := true }) ∧
      (∀ d rest, (s.sq r.ring.val).fetched = d :: rest → d.op = 3 → d.begun = true →
        ∃ e, e.status = (stepStatus r s).1 ∧ e.firstSeq = (stepStatus r s).2 ∧ e.kind = 1 ∧ e.applied = r.applied ∧ e.step = r.number ∧
          e.cookie.toNat = bits d.raw 32 32 ∧ EntryPosted t (s.cqOf r.ring.val) e) ∧
      (∃ l, Sparse.look (fun _ => none) t.power.ledger s.power.ledgerNext = some l ∧ l.step = r.number ∧ l.m = m ∧ l.start = r.start ∧ l.finish = s.now ∧
        (l.ok = true ↔ (stepStatus r s).1 = 0)) ∧
      (∀ c, (t.core c).queues = [] ∧ (t.core c).running = [] ∧ (t.core c).tokens = [] ∧ (t.core c).index = 0 ∧
        ∀ k id g, (t.core c).region k id = some g → g.epoch = 0 ∧ g.owner = none) ∧
      (∀ v, (t.uu v).held = [] ∧ (t.uu v).running = none ∧ (t.uu v).next = 0))

/-- R359, R360, R363, R383: an open fault that no replay has followed is classified from history: permanent with two earlier records of its unit, else transient with 0x0013. A permanent fault of a core makes the core due for quarantine; one that takes no unit out of service is recorded (0x0013 with CLASS 2 is the model's, log 142). -/
def FaultsClassified : Prop :=
  ∀ (s : State) (u : Unclassified), s.unclassified.find? (fun x => x.seq == u.seq) = some u →
    if s.dealmeg = true ∧ (16 ≤ u.steps ∨ u.vary = true) then
      ∃ t, exec (.classifyByHistory u.seq) s = .next t ∧ t.unclassified = s.unclassified.erase u ∧ t.mem = s.mem ∧ t.cores = s.cores ∧
        (2 ≤ historyCount u s → t.reg (Off.relCount + 32) = satAdd (s.reg (Off.relCount + 32)) 1 ∧
          (bits u.unit 12 4 = 1 → spared u.injected s = false → t.mgmt = s.mgmt ∧
            (s.due.any (Due.removes (bits u.unit 10 2) (bits u.unit 0 10)) = false →
              t.due = s.due ++ [.quarantine (bits u.unit 10 2) (bits u.unit 0 10) u.seq true false])) ∧
          (bits u.unit 12 4 ≠ 1 ∨ spared u.injected s = true → t.due = s.due ∧
            (s.mgmt.queue.length < 4096 → ∃ z, t.mgmt.queue = s.mgmt.queue ++ [z] ∧ z.code = 0x0013 ∧ z.unit = u.unit ∧ z.detail = u.seq ∧ bits z.flags 3 2 = 2))) ∧
        (historyCount u s < 2 → t.reg (Off.relCount + 24) = satAdd (s.reg (Off.relCount + 24)) 1 ∧ t.due = s.due ∧
          (s.mgmt.queue.length < 4096 → ∃ z, t.mgmt.queue = s.mgmt.queue ++ [z] ∧ z.code = 0x0013 ∧ z.unit = u.unit ∧ z.detail = u.seq ∧ bits z.flags 3 2 = 1))
    else exec (.classifyByHistory u.seq) s = .next s

/-- R359, R363, R390: an error of a replayed step that repeats an open one of its code and unit is permanent: the record says so, and a core becomes due for quarantine. -/
def RepeatedFaultsArePermanent : Prop :=
  ∀ (s : State) (c : Cause), c.cls = none → c.code ≠ 0x2080 → disposition c.code = .silent ∨ disposition c.code = .data → bits c.unit 12 4 = 1 →
    s.recurs c.code c.unit = true → spared c.injected s = false → s.due.any (Due.removes (bits c.unit 10 2) (bits c.unit 0 10)) = false →
    let t := raise c s
    bits (recordOf c s).flags 3 2 = 2 ∧ t.due = s.due ++ [.quarantine (bits c.unit 10 2) (bits c.unit 0 10) s.mram.nextSeq false false] ∧
    ∀ u ∈ t.unclassified, u.repeats c.code c.unit = true → u.permanent = true

/-- R361, R363, R366: a spare that passes its confirmation test takes the logical core over, with 0x2083 against the old core, which is quarantined; one that fails is quarantined with 0x2085. Of the two cores of a recurring mismatch one is tested after the other; when neither fails, the one whose result was consumed is permanent by elimination, and its work goes to a spare. -/
def SparesTakeOver : Prop :=
  ∀ (s : State) (v : Fin 4), (∀ x ∈ s.due, x.tile ≠ v.val) → iftOn s = false ∨ (∀ q, (s.ph v.val q).due = false) →
    (s.confirmOf v.val = none → ∀ ok, exec (.confirmationTestDone v ok) s = .next s) ∧
    (∀ (k old p : Nat) (rcd : Word) (h e : Bool), s.confirmOf v.val = some (.spare k old p rcd h e) → p ≠ old →
      (∃ t, exec (.confirmationTestDone v true) s = .next t ∧ t.confirmOf v.val = none ∧ (t.ph v.val p).state = .spareCarrying ∧ (t.ph v.val p).logical = some k ∧
        (t.ph v.val old).state = .quarantined ∧ (t.ph v.val old).logical = none ∧ t.reg (Off.relCount + 40) = satAdd (s.reg (Off.relCount + 40)) 1 ∧
        (s.mgmt.queue.length < 4096 → ∃ z, t.mgmt.queue = s.mgmt.queue ++ [z] ∧ z.code = 0x2083 ∧ z.unit = unitCore v.val old ∧ z.detail = rcd) ∧
        t.mem = s.mem ∧ t.cores = s.cores) ∧
      (∃ t, exec (.confirmationTestDone v false) s = .next t ∧ (t.ph v.val p).state = .quarantined ∧ Raised s t 0x2085 ∧ t.mem = s.mem ∧ t.cores = s.cores)) ∧
    (∀ (cores bad : List Nat) (consumed : Nat) (rcd : Word) (leave : Bool), s.confirmOf v.val = some (.suspects cores bad consumed rcd leave) →
      (2 ≤ cores.length → ∀ ok, exec (.confirmationTestDone v ok) s =
        .next (setConfirm v.val (some (.suspects (cores.drop 1) (if ok then bad else bad ++ cores.take 1) consumed rcd leave)) s)) ∧
      (∀ k q, cores.length = 1 → bad = [] → leave = true → (s.ph v.val consumed).logical = some k → (s.ph v.val consumed).state = .active ∨ (s.ph v.val consumed).state = .spareCarrying →
        s.freeSpare v.val = some q →
        ∃ t, exec (.confirmationTestDone v true) s = .next t ∧ t.reg (Off.relCount + 32) = satAdd (s.reg (Off.relCount + 32)) 1 ∧
          (t.ph v.val consumed).logical = none ∧ (t.ph v.val q).state = .underTest ∧ t.confirmOf v.val = some (.spare k consumed q rcd false true) ∧ t.mem = s.mem))

/-- R373 to R377: in its turn a core in service falls due for its test; a test segment that passes counts, and the last ends the test of a spare; one that fails runs once more; a pass then is recorded as transient, and a second failure is permanent with 0x2085: a spare is quarantined at once, a core whose work a spare carries at the boundary. -/
def CoresAreTested : Prop :=
  ∀ (s : State) (v : Fin 4) (p : Fin 68),
    let x := s.ph v.val p.val
    (if iftOn s = true ∧ nextTurn v.val s = some p.val ∧ turnReached v.val s = true then
      ∃ t, exec (.iftDue v p) s = .next t ∧ Sparse.look (fun _ => none) t.turns v.val = some (p.val, s.now) ∧ t.mem = s.mem ∧ t.cores = s.cores ∧ t.regs = s.regs ∧
        t.mgmt = s.mgmt ∧ (x.due = true → t.phys = s.phys) ∧
        (x.due = false → (t.ph v.val p.val).due = true ∧ (t.ph v.val p.val).segsLeft = segmentsOf s ∧ (t.ph v.val p.val).logical = x.logical)
    else exec (.iftDue v p) s = .next s) ∧
    (x.state = .underTest → 0 < x.segsLeft → isConfirming v.val p.val s = false →
      (∃ t, exec (.iftSegmentDone v p true) s = .next t ∧ (t.ph v.val p.val).segsLeft = x.segsLeft - 1 ∧ (t.ph v.val p.val).retried = false ∧
        t.reg (Off.relCount + 48) = satAdd (s.reg (Off.relCount + 48)) 1 ∧ (x.retried = false → t.mgmt = s.mgmt) ∧
        (x.retried = true → Raised s t 0x2085 ∧ t.reg (Off.relCount + 24) = satAdd (s.reg (Off.relCount + 24)) 1) ∧
        (t.ph v.val p.val).state = (if x.segsLeft = 1 ∧ x.spare = none then .freeSpare else .underTest)) ∧
      (x.retried = false → exec (.iftSegmentDone v p false) s = .next (s.setPh v.val p.val { x with retried := true })) ∧
      (x.retried = true → ∃ t, exec (.iftSegmentDone v p false) s = .next t ∧ Raised s t 0x2085 ∧ t.reg (Off.relCount + 32) = satAdd (s.reg (Off.relCount + 32)) 1 ∧
        (x.spare = none → (t.ph v.val p.val).state = .quarantined ∧ t.due = s.due) ∧
        (x.spare.isSome = true → s.due.any (Due.removes v.val p.val) = false → t.due = s.due ++ [.quarantine v.val p.val s.mram.nextSeq false false])))

/-- R359 to R361, R363, R366, R373 to R377: faults are classified by replay and by history, spares that pass their confirmation test take over, and working cores are tested in turn. -/
def Obligations.FaultsClassifiedAndCoresTested : Prop := FaultsClassified ∧ RepeatedFaultsArePermanent ∧ SparesTakeOver ∧ CoresAreTested

/-- R350 to R352, R571: a record that is raised carries the code, the unit, the tag, the time and the next SEQ, and its last two bytes are the CRC-16 of the first 62; SEQ then rises by one. It waits in the queue, or with 4,096 waiting is lost and counted. -/
def RecordsCarrySeqAndCrc : Prop :=
  ∀ (s : State) (c : Cause),
    let t := raise c s
    let z := recordOf c s
    z.code = c.code ∧ z.unit = c.unit ∧ z.tag = c.tag.setWidth 64 ∧ z.time = s.now ∧ z.seq = s.mram.nextSeq ∧ z.step = s.stepNo ∧
    (recordBytes z).length = 64 ∧ byteField (recordBytes z) 62 2 = (crc16 ((recordBytes z).take 62)).toNat ∧
    t.mram.nextSeq = s.mram.nextSeq + 1 ∧
    t.mgmt.queue = (if 4096 ≤ s.mgmt.queue.length then s.mgmt.queue else s.mgmt.queue ++ [z]) ∧
    t.mgmt.lost = (if 4096 ≤ s.mgmt.queue.length then s.mgmt.lost + 1 else s.mgmt.lost) ∧ t.mem = s.mem ∧ t.cores = s.cores

/-- R384 to R386, R571: while Dealmeg runs and overload does not stop it, the oldest waiting record goes to the next free slot of the pinned area when its code is pinned and a slot is free, and otherwise to the ring, over the oldest record there; a pinned record that finds the area full raises 0x7010 the first time; after a loss the record 0x7030 with the number lost goes first. -/
def LogKeepsRecords : Prop :=
  ∀ (s : State),
    (s.dealmeg = false ∨ s.mgmt.drainStopped = true ∨ (s.mgmt.lost = 0 ∧ s.mgmt.queue = []) → exec .logDrain s = .next s) ∧
    (s.dealmeg = true → s.mgmt.drainStopped = false →
      (∀ z rest, s.mgmt.lost = 0 → s.mgmt.queue = z :: rest →
        ∃ t, exec .logDrain s = .next t ∧ t.mem = s.mem ∧ t.cores = s.cores ∧
          (isPinned z = true → s.mram.pinnedUsed < 65536 →
            t.mgmt.queue = rest ∧ t.mram.pinnedUsed = s.mram.pinnedUsed + 1 ∧
            Sparse.look (fun _ => none) t.mram.pinned s.mram.pinnedUsed = some (sealRecord { z with flags := z.flags ||| 0x80 }) ∧ t.mram.ring = s.mram.ring) ∧
          (isPinned z = false ∨ 65536 ≤ s.mram.pinnedUsed →
            t.mram.pinned = s.mram.pinned ∧ Sparse.look (fun _ => none) t.mram.ring s.mram.ringNext = some z ∧
            t.mram.ringNext = (s.mram.ringNext + 1) % 983040 ∧
            (∀ k, k ≠ s.mram.ringNext → Sparse.look (fun _ => none) t.mram.ring k = Sparse.look (fun _ => none) s.mram.ring k) ∧
            (isPinned z = false ∨ s.mram.pinnedFull = true → t.mgmt.queue = rest) ∧
            (isPinned z = true → s.mram.pinnedFull = false → rest.length < 4096 → ∃ y, t.mgmt.queue = rest ++ [y] ∧ y.code = 0x7010))) ∧
      (0 < s.mgmt.lost → ∃ t z, exec .logDrain s = .next t ∧ t.mgmt.lost = 0 ∧ t.mgmt.queue = s.mgmt.queue ∧
        Sparse.look (fun _ => none) t.mram.ring s.mram.ringNext = some z ∧ z.code = 0x7030 ∧ z.detail = BitVec.ofNat 32 s.mgmt.lost ∧ t.mem = s.mem))

/-- R350 to R352, R384 to R386, R571: records carry their fields, SEQ and CRC, wait in the queue, and reach the log in order. -/
def Obligations.RecordsAndLog : Prop := RecordsCarrySeqAndCrc ∧ LogKeepsRecords

/-! ### Live repair (08) -/

/-- R304 to R306: the varnish pass rewrites a word of a stripe in service whose codeword is correctable as the codeword of its data, and one that is uncorrectable and not yet poison as poison; it leaves a stripe that is not in service. -/
def VarnishRewritesWords : Prop :=
  ∀ (s : State) (q : Fin 384) (i : Nat) (k : Nat), physWord ⟨q.val, i⟩ 0 ≤ k → k < physWord ⟨q.val, i⟩ 0 + 32768 →
    ∃ t, exec (.varnishRead q i noErrs) s = .next t ∧ t.mem.map = s.mem.map ∧ t.cores = s.cores ∧
      if (s.ownerOf ⟨q.val, i⟩).isSome ∧ bit (s.act Off.varnishCtl) 0 = true ∧ (s.chan q.val).state ≠ .repairing ∧ (s.chan q.val).state ≠ .dead then
        t.stored k = (match eccRead (s.stored k) with
          | .correct _ => s.stored k
          | .corrected w => codeword w
          | .uncorrectable w syn => if syn = 0x7F then s.stored k else poisoned w)
      else t.mem.stack = s.mem.stack

/-- May single stripes of a channel be relocated: it is in service, or degraded by a single stripe (R308, R319). -/
def Relocates (c : Channel) : Prop := c.state = .inService ∨ (c.state = .degraded ∧ c.fromMapOut = false)

/-- The retirement list after an entry is added: the MRAM area holds 65,536 records (R18), and one that finds them used up is not kept (the model's choice, log 137). -/
def ListGains (s t : State) (x : Retired) : Prop :=
  t.mram.retirement = if s.mram.retirement.length < 65536 then s.mram.retirement ++ [x] else s.mram.retirement

/-- R308, R309: a stripe that has earned retirement is retired once with 0x1003; a MAPPED one is queued for relocation while its channel's stripes may be relocated, and a FREE reserve entry is spent. At the end of a window each channel keeps its count and starts again; a channel over its limit is mapped out with 0x1004, its FREE reserve entries spent. -/
def StripesAndChannelsRetire : Prop :=
  (∀ (s : State) (q : Fin 384) (i : Nat),
    let p : Phys := ⟨q.val, i⟩
    (p ∉ s.mem.toRetire → exec (.stripeRetire q i) s = .next s) ∧
    (p ∈ s.mem.toRetire → retiredStripe p s = true → ∃ t, exec (.stripeRetire q i) s = .next t ∧ t.mem.toRetire = s.mem.toRetire.erase p ∧ t.mram = s.mram ∧ t.mgmt = s.mgmt) ∧
    (p ∈ s.mem.toRetire → retiredStripe p s = false →
      ∃ t, exec (.stripeRetire q i) s = .next t ∧ t.mem.toRetire = s.mem.toRetire.erase p ∧ Raised s t 0x1003 ∧ ListGains s t (.stripe q.val i) ∧
        (t.chan q.val).retired = (s.chan q.val).retired + 1 ∧ t.reg (Off.memCount + 24) = satAdd (s.reg (Off.memCount + 24)) 1 ∧ t.mem.stack = s.mem.stack ∧
        (s.ownerOf p = none → t.mem.map = s.mem.map ∧ t.mem.repairs = s.mem.repairs) ∧
        (∀ n, s.ownerOf p = some n →
          ((s.entry n).state = .mapped → t.mem.map = s.mem.map ∧
            (Relocates (s.chan q.val) → t.mem.repairs = s.mem.repairs ++ [.stripe n p]) ∧ (¬ Relocates (s.chan q.val) → t.mem.repairs = s.mem.repairs)) ∧
          ((s.entry n).state = .free → (t.entry n).state = .spent ∧ ((∀ x ∈ s.mem.relocs, x.reserve ≠ n) → t.mem.repairs = s.mem.repairs))))) ∧
  (∀ (s : State), Sparse.wf chanReset s.mem.channels = true →
    ∃ t, exec .ceWindowEnd s = .next t ∧ { s with mem := { s.mem with channels := t.mem.channels } } = t ∧
      ∀ q, t.chan q = { s.chan q with ceLast := min 65535 (s.chan q).ceNow, ceNow := 0 }) ∧
  (∀ (s : State) (q : Fin 384),
    (Relocates (s.chan q.val) → overLimit (s.chan q.val) s = true →
      ∃ t, exec (.channelMapOut q) s = .next t ∧ Raised s t 0x1004 ∧ (t.chan q.val).state = .repairing ∧ t.mem.repairs = s.mem.repairs ++ [.mapOut q.val] ∧
        ListGains s t (.mapOut q.val false) ∧
        (∀ j < 48, (s.entry (571392 + 384 * j + q.val)).state = .free → (t.entry (571392 + 384 * j + q.val)).state = .spent) ∧
        (∀ n < 571392, t.entry n = s.entry n) ∧ t.mem.stack = s.mem.stack) ∧
    (¬ Relocates (s.chan q.val) ∨ overLimit (s.chan q.val) s = false → exec (.channelMapOut q) s = .next s))

/-- R304 to R309: the varnish pass, the retirement of stripes, and the map-out of channels. -/
def Obligations.VarnishAndRetirement : Prop := VarnishRewritesWords ∧ StripesAndChannelsRetire

/-- R307, R311 to R313, R319, R321: the next stripe to be relocated, that of a single task or the lowest of a channel that is emptied, takes the lowest FREE reserve entry that may be used and is COPYING in the master and in every replica; without an entry it stays where it is, with 0x1007 once. With the replicas' answers the copy begins; when it is done every word of the new stripe is the old one's, corrected, or poison, the entry is MAPPED there, the reserve entry is spent, and the relocation is counted; the old stripe is then released. -/
def StripesRelocate : Prop :=
  (∀ (s : State) (n : Nat) (p : Phys) (em : Option Nat) (rest : List Repair), mayStart s = true → n < 571392 → (s.entry n).state = .mapped → (s.entry n).loc = p →
    (em = none ∧ s.mem.repairs = .stripe n p :: rest) ∨
      (∃ q, em = some q ∧ s.mem.repairs = .mapOut q :: rest ∧ least (s.logicalOn q (fun x => x == .mapped)) = some n) →
    (∀ k, s.takeReserve em = some k →
      ∃ t, exec .relocationStart s = .next t ∧ (∀ v, v ≤ 4 → t.entryFor v n = { state := .copying, loc := p, loc2 := some (s.entry (571392 + k)).loc }) ∧
        t.mem.repairs = (if em.isSome then s.mem.repairs else rest) ∧ t.mem.stack = s.mem.stack ∧ (∀ m, m ≠ n → t.entry m = s.entry m) ∧
        t.mem.relocs = s.mem.relocs ++ [{ entry := n, src := p, dst := (s.entry (571392 + k)).loc, reserve := 571392 + k, stage := .waitAck, mapOut := em.isSome }]) ∧
    (s.takeReserve em = none →
      ∃ t, exec .relocationStart s = .next t ∧ t.mem.map = s.mem.map ∧ t.mem.stack = s.mem.stack ∧ t.mem.relocs = s.mem.relocs ∧ (t.chan p.q).pending = true ∧
        ((s.chan p.q).state ≠ .dead → (t.chan p.q).state = .degraded) ∧ (s.mem.exhausted = false → Raised s t 0x1007) ∧ (s.mem.exhausted = true → t.mgmt = s.mgmt))) ∧
  (∀ (s : State) (x : Reloc), s.mem.relocs = [x] →
    (x.stage = .waitAck → exec .replicasAcknowledged s = .next { s with mem := { s.mem with relocs := [{ x with stage := .copying }] } }) ∧
    (x.stage = .draining → exec .oldStripeRelease s = .next { s with mem := { s.mem with relocs := [] } }) ∧
    (x.stage = .copying → x.src ≠ x.dst → x.src.i < 1536 → x.dst.i < 1536 → x.entry ≠ x.reserve → Memory.wf s.mem.stack = true →
      ∃ t, exec .stripeCopyDone s = .next t ∧ t.mem.relocs = [{ x with stage := .draining }] ∧
        t.entry x.entry = { state := .mapped, loc := x.dst, loc2 := none } ∧ (t.entry x.reserve).state = .spent ∧
        t.reg (Off.memCount + 32) = satAdd (s.reg (Off.memCount + 32)) 1 ∧
        (∀ w < 32768, t.stored (physWord x.dst w) = copiedCode (s.stored (physWord x.src w))) ∧
        (∀ k, (k < physWord x.dst 0 ∨ physWord x.dst 0 + 32768 ≤ k) → t.stored k = s.stored k)))

/-- R310, R314: a channel that dies takes every entry on it that held data to LOST, with 0x1005, and its FREE reserve entries to SPENT. A relocation under way from it ends with its entry LOST; one onto it starts again: its entry is MAPPED where it was, and a single stripe's task is the first. A channel that is dead already stays so. -/
def ChannelsDie : Prop :=
  ∀ (s : State) (q : Fin 384),
    ((s.chan q.val).state = .dead → exec (.channelDead q) s = .next s) ∧
    ((s.chan q.val).state ≠ .dead →
      (s.mem.relocs = [] →
        ∃ t, exec (.channelDead q) s = .next t ∧ Raised s t 0x1005 ∧ (t.chan q.val).state = .dead ∧ ListGains s t (.dead q.val) ∧
          (∀ n < 571392, (s.entry n).loc.q = q.val → (s.entry n).state = .mapped ∨ (s.entry n).state = .copying →
            (t.entry n).state = .lost ∧ (t.entry n).loc = (s.entry n).loc) ∧
          (∀ j < 48, (s.entry (571392 + 384 * j + q.val)).state = .free → (t.entry (571392 + 384 * j + q.val)).state = .spent) ∧
          t.mem.stack = s.mem.stack ∧ t.cores = s.cores) ∧
      (∀ x, s.mem.relocs = [x] → x.stage ≠ .draining → x.dst.q = q.val → x.src.q ≠ q.val → x.entry < 571392 →
        ∃ t, exec (.channelDead q) s = .next t ∧ t.mem.relocs = [] ∧ t.entry x.entry = { state := .mapped, loc := x.src, loc2 := none } ∧
          t.mem.repairs = (if x.mapOut then [] else [.stripe x.entry x.src]) ++ s.mem.repairs.filter (fun y => !repairOn q.val y) ∧ t.mem.stack = s.mem.stack) ∧
      (∀ x, s.mem.relocs = [x] → x.stage ≠ .draining → x.src.q = q.val → x.entry < 571392 →
        ∃ t, exec (.channelDead q) s = .next t ∧ t.mem.relocs = [] ∧ t.entry x.entry = { state := .lost, loc := x.src, loc2 := none } ∧ t.mem.stack = s.mem.stack))

/-- R307, R310 to R314, R319, R321: stripes are relocated while work goes on, and channels die. -/
def Obligations.StripesRelocateAndDie : Prop := StripesRelocate ∧ ChannelsDie

/-! ### Power, start-up and reset (15) -/

/-- The module is powered down: off, POWER_GOOD low, registers and every memory but the MRAM at reset; where firmware ran, the energy count and this cause are in the MRAM. -/
def PoweredDown (s t : State) (cause : Byte) : Prop :=
  t.mgmt.boot = .off ∧ t.pins.powerGood = false ∧ t.regs = [] ∧ t.cores = [] ∧ t.mem = Mem.reset ∧ t.program = none ∧ t.step = none ∧ t.rom = s.rom ∧
  (firmwareUp s = true → t.mram.cause = cause ∧ t.mram.energy = s.power.energy)

/-- A record of this code stands in the ring of the log. -/
def Logged (t : State) (k : Code) : Prop := ∃ n z, Sparse.look (fun _ => none) t.mram.ring n = some z ∧ z.code = k

/-- R526 to R529, R545, R602, R606, R608, R610: ENABLE, recovery of the input and the charged hold-up capacitance start the ramp where nothing else keeps the module off. Loss of ENABLE, an input too low or too high, a rail out of regulation and a thermal trip power a module that is on down, each with its record in the log and its cause; the last three latch until ENABLE rises again or the input is removed. -/
def Obligations.PowerUpAndDown : Prop :=
  ∀ (s : State),
    (s.pins.enable = false → ∃ t, exec .enableAssert s = .next t ∧ t.pins = { s.pins with enable := true, latch := false, tripped := false } ∧
      (s.mgmt.boot = .off → (t.mgmt.boot = .ramping ↔ s.pins.input = true ∧ s.pins.charged = true ∧ s.pins.inRange = true)) ∧
      (s.mgmt.boot ≠ .off → t.mgmt = s.mgmt)) ∧
    (s.pins.input = true → ∃ t, exec .inputRecovered s = .next t ∧ t.pins = { s.pins with inRange := true } ∧
      (s.mgmt.boot = .off → (t.mgmt.boot = .ramping ↔ s.pins.enable = true ∧ s.pins.charged = true ∧ s.pins.latch = false)) ∧
      (s.mgmt.boot ≠ .off → t.mgmt = s.mgmt)) ∧
    (∃ t, exec .holdUpCharged s = .next t ∧ t.pins = { s.pins with input := true, inRange := true, charged := true } ∧
      (s.mgmt.boot = .off → (t.mgmt.boot = .ramping ↔ s.pins.enable = true ∧ s.pins.latch = false)) ∧ (s.mgmt.boot ≠ .off → t.mgmt = s.mgmt)) ∧
    (s.mgmt.boot ≠ .off →
      (∃ t, exec .enableDeassert s = .next t ∧ PoweredDown s t 5 ∧ t.pins.enable = false ∧ t.pins.latch = s.pins.latch) ∧
      (s.pins.input = true → ∃ t, exec .inputUndervoltage s = .next t ∧ PoweredDown s t 1 ∧ t.pins.inRange = false ∧ t.pins.latch = s.pins.latch ∧
        (firmwareUp s = true → Logged t 0x5001)) ∧
      (∃ t, exec .inputOvervoltage s = .next t ∧ PoweredDown s t 2 ∧ t.pins.latch = true ∧ (firmwareUp s = true → Logged t 0x5002)) ∧
      (∀ rail : BitVec 10, 1 ≤ rail.toNat → rail.toNat ≤ 11 →
        ∃ t, exec (.railOutOfRegulation rail) s = .next t ∧ PoweredDown s t 3 ∧ t.pins.latch = true ∧ (firmwareUp s = true → Logged t 0x5003)) ∧
      (∀ x, ∃ t, exec (.thermalTrip x) s = .next t ∧ PoweredDown s t 4 ∧ t.pins.latch = true ∧ t.pins.tripped = true ∧ (firmwareUp s = true → Logged t 0x5013)) ∧
      (∃ t, exec .inputRemoved s = .next t ∧ PoweredDown s t 1 ∧ t.pins.input = false ∧ t.pins.inRange = false ∧ t.pins.charged = false ∧
        t.pins.latch = false ∧ t.pins.tripped = false)) ∧
    (s.mgmt.boot = .off →
      exec .enableDeassert s = .next { s with pins := { s.pins with enable := false } } ∧
      (s.pins.input = true → exec .inputUndervoltage s = .next { s with pins := { s.pins with inRange := false } }) ∧
      exec .inputRemoved s = .next { s with pins := { s.pins with input := false, inRange := false, charged := false, latch := false, tripped := false } })

/-- R529, R554 to R561, R608: RESET_N low, and the key written to MGT_RESET, put a running module into its reset state at the 10.5 ms row, the MRAM, boot flash and fuses kept; released, the boot ROM starts with POWER_GOOD high and the slot that NEXT_SLOT names; an image that passes its checks starts, its digest extended into M1; a refused one is recorded, the other slot is tried once, and then recovery mode follows with the link up; once the link has trained the module is ready. -/
def Obligations.ResetAndBoot : Prop :=
  ∀ (s : State),
    let down (t : State) : Prop := t.mgmt.boot = .atReset ∧ t.regs = [] ∧ t.cores = [] ∧ t.mem = Mem.reset ∧ t.program = none ∧ t.rom = s.rom ∧ t.pins.powerGood = false ∧
      t.pending = s.pending ∧ (firmwareUp s = true → t.mram.energy = s.power.energy)
    (∃ t, exec .resetNLow s = .next t ∧ t.pins.resetN = false ∧ (if s.mgmt.boot = .off ∨ s.mgmt.boot = .ramping then t = { s with pins := { s.pins with resetN := false } } else down t)) ∧
    (exec .resetNRelease s = .next { s with pins := { s.pins with resetN := true } }) ∧
    (∀ v : Dword, WriteTaken s (slotWrite Off.mgtReset v) →
      ∃ t, exec (.mgtReset v) s = .next t ∧ if bits v 0 32 = 0xA5C3 then down t else t = s) ∧
    (s.mgmt.boot = .ramping ∨ s.mgmt.boot = .atReset → s.pins.resetN = true →
      ∃ t, exec .bootRomStart s = .next t ∧ t.mgmt.boot = .rom ∧ t.mgmt.slotB = s.rom.nextSlot ∧ t.pins.powerGood = true ∧ t.sec.idKey = Config.idKey s.rom.secret) ∧
    (s.mgmt.boot = .rom → ∃ t, exec .firmwareImageCheck s = .next t ∧
      match imageFault s.bootSlot s.rom with
      | none => t.mgmt.boot = .firmware ∧ t.mgmt.fwVersion = BitVec.ofNat 32 (byteField s.bootSlot 12 4) ∧
          Sparse.look (fun _ => 0) t.sec.meas 1 = sha256 (leBytes 32 (Sparse.look (fun _ => 0) s.sec.meas 1).toNat ++ leBytes 32 (imageHash s.bootSlot).toNat)
      | some code => Raised s t code ∧
          (s.mgmt.tried = true → t.mgmt.boot = .recovery ∧ t.linkUp = true) ∧
          (s.mgmt.tried = false → t.mgmt.boot = .rom ∧ t.mgmt.tried = true ∧ t.mgmt.slotB = !s.mgmt.slotB)) ∧
    (s.mgmt.boot = .firmware → ∃ t, exec .ucieTrainingDone s = .next t ∧ t.mgmt.boot = .ready ∧ t.linkUp = true ∧ t.mem = s.mem)

/-- R532 to R535, R553: above 97 % of the cap the limiter lowers its trim target by 5 mV, or with every rail at 0.55 V raises the hold share; below 94 % it releases hold, and after ten such samples 5 mV; every rail moves by at most 50 mV toward its goal; the energy count takes in the sample. R536 to R540: the governor sets the operating point for the next step once at a boundary, FIXED_POINT in mode 0, and a choice made while a step runs waits. R548: the floor ratio of a window is kept where it has fewer than 10^9 products. -/
def LimiterGovernorFloor : Prop :=
  (∀ (s : State) (watts : Nat) (vin : BitVec 16), s.powered = true →
    let floor := (List.range 4).all (fun t => s.rail t == 550)
    let p := s.power
    ∃ t, exec (.limiterSample watts vin) s = .next t ∧ t.power.watts = watts ∧ t.power.vin = vin ∧
      (97 * s.cap < 100 * watts →
        t.power.below = 0 ∧ (floor = true → t.power.hold = min 64 (p.hold + 1) ∧ t.power.trim = p.trim) ∧ (floor = false → t.power.trim = p.trim + 5 ∧ t.power.hold = p.hold)) ∧
      (100 * watts < 94 * s.cap →
        t.power.hold = p.hold - 1 ∧ t.power.below = p.below + 1 ∧ t.power.trim = (if 10 ≤ p.below + 1 then p.trim - 5 else p.trim)) ∧
      (100 * watts ≤ 97 * s.cap → 94 * s.cap ≤ 100 * watts → t.power.hold = p.hold ∧ t.power.trim = p.trim ∧ t.power.below = 0) ∧
      (t.power.limiting = true ↔ 0 < t.power.trim ∨ 0 < t.power.hold) ∧
      (∀ v < 4, t.rail v = moveRail (s.rail v) (t.railGoal v) ∧ t.rail v ≤ s.rail v + 50 ∧ s.rail v ≤ t.rail v + 50) ∧
      (p.energy.toNat + (p.energyFrac + watts) / 100 < 2 ^ 64 →
        100 * t.power.energy.toNat + t.power.energyFrac = 100 * p.energy.toNat + p.energyFrac + watts) ∧
      (∀ r, s.step = some r → r.limited = false → t.power.limiting = true → Raised s t 0x0030) ∧ t.mem = s.mem ∧ t.cores = s.cores) ∧
  (∀ (s : State) (watts : Nat) (vin : BitVec 16), s.powered = false → exec (.limiterSample watts vin) s = .next s) ∧
  (∀ (s : State), s.dealmeg = false ∨ s.power.chosen = true → exec .governor s = .next s) ∧
  (∀ (s : State), s.dealmeg = true → s.power.chosen = false →
    (s.step = none → ∃ t, exec .governor s = .next t ∧ t.power.chosen = true ∧ t.power.point = (governorChoice s).1 ∧ t.power.target = 550 + 50 * t.power.point ∧
      (bits (s.act Off.pwrMode) 0 2 = 0 → t.power.point = min 5 (bits (s.act Off.pwrMode) 2 3)) ∧ (1 ≤ bits (s.act Off.pwrMode) 0 2 → s.power.lastGood = none → t.power.point = max 1 (min 5 (bits (s.act Off.pwrMode) 5 3))) ∧
        (t.power.miss = true → Raised s t 0x5021) ∧ t.mem = s.mem) ∧
    (s.step.isSome = true → ∃ t, exec .governor s = .next t ∧ t.power = { s.power with chosen := true, later := some (governorChoice s) } ∧ t.mgmt = s.mgmt)) ∧
  (∀ (s : State) (fj n : Nat), ∃ t, exec (.floorWindow fj n) s = .next t ∧
    if n < 1000000000 then t = s else t.power.floorRatio.toNat = min 65535 (fj * 65536 / (n * 1024)) ∧ t.mem = s.mem)

/-- R429, R430, R541 to R544: a stack above 95 °C or a tile above 100 °C enters its first response with 0x5010 or 0x5012, a stack above 105 °C stops with 0x5011 and beacons say so from then on; below its clear temperature a response ends, and when no stack is stopped any more the abort timer is gone and every collective's deadline starts again. -/
def ThermalResponses : Prop :=
  ∀ (s : State) (v : BitVec 16), s.powered = true →
    (∀ k : Fin 24, (s.stackT k.val).state = 0 → hotter v 95 = true →
      ∃ t, exec (.stackOver95 k v) s = .next t ∧ (t.stackT k.val).state = 1 ∧ (t.stackT k.val).temp = v ∧ t.trimmed (k.val / 6) = true ∧ Raised s t 0x5010 ∧
        t.mem = s.mem ∧ t.fabric = s.fabric) ∧
    (∀ k : Fin 24, (s.stackT k.val).state ≠ 2 → hotter v 105 = true →
      ∃ t, exec (.stackOver105 k v) s = .next t ∧ (t.stackT k.val).state = 2 ∧ t.fabric.stopped = true ∧ Raised s t 0x5011 ∧ t.mem = s.mem ∧
        (s.fabric.stopped = false → t.fabric.abortTimer = some (s.now + 500000)) ∧ (s.fabric.stopped = true → t.fabric.abortTimer = s.fabric.abortTimer)) ∧
    (∀ n : Fin 4, (s.tileT n.val).state = 0 → hotter v 100 = true →
      ∃ t, exec (.tileOver100 n v) s = .next t ∧ (t.tileT n.val).state = 1 ∧ t.trimmed n.val = true ∧ Raised s t 0x5012 ∧ t.mem = s.mem ∧ t.fabric = s.fabric) ∧
    (∀ n : Fin 4, (s.tileT n.val).state ≠ 0 → cooler v 95 = true →
      ∃ t, exec (.thermalResponseClear (.tile n) v) s = .next t ∧ (t.tileT n.val).state = 0 ∧ t.fabric = s.fabric ∧ t.mem = s.mem) ∧
    (∀ k : Fin 24, (s.stackT k.val).state = 1 → cooler v 90 = true →
      ∃ t, exec (.thermalResponseClear (.stack k) v) s = .next t ∧ (t.stackT k.val).state = 0 ∧ t.fabric = s.fabric ∧ t.mem = s.mem) ∧
    (∀ k : Fin 24, (s.stackT k.val).state = 2 → cooler v 100 = true → (∀ j < 24, j ≠ k.val → (s.stackT j).state ≠ 2) →
      ∃ t, exec (.thermalResponseClear (.stack k) v) s = .next t ∧ (t.stackT k.val).state = (if cooler v 90 then 0 else 1) ∧ t.fabric.stopped = false ∧
        t.fabric.abortTimer = none ∧ (∀ c ∈ t.fabric.colls, c.progress = s.now) ∧ t.mem = s.mem) ∧
    (∀ k : Fin 24, (s.stackT k.val).state = 2 → cooler v 100 = true → (∃ j, j < 24 ∧ j ≠ k.val ∧ (s.stackT j).state = 2) →
      ∃ t, exec (.thermalResponseClear (.stack k) v) s = .next t ∧ (t.stackT k.val).state = (if cooler v 90 then 0 else 1) ∧ t.fabric = s.fabric ∧ t.mem = s.mem)

/-- R429, R430, R532 to R548, R553: the limiter, the governor, the floor ratio and the thermal responses. -/
def Obligations.PowerAndHeatAreHeld : Prop := LimiterGovernorFloor ∧ ThermalResponses

/-! ### Management (16, 17, 18) -/

/-- R575 to R580: a disagreeing calibration comparison raises its region's setting by one and counts, or at 63 raises 0x2089 against the unit; relaxing lowers a setting above its floor; the settings and the energy count are saved. A sample of an enabled monitor moves its minimum, maximum, last value and one bin; CLEAR resets a monitor apart from its last value. -/
def CalibrationAndMonitors : Prop :=
  (∀ (s : State) (u : UnitId) (g : Fin 6),
    let p := s.calPoint u g.val
    let v := s.setting u g.val p
    (63 ≤ v → ∃ t, exec (.calibrationDisagree u g) s = .next t ∧ t.setting u g.val p = v ∧ Raised s t 0x2089 ∧ t.mem = s.mem) ∧
    (v < 63 → ∃ t, exec (.calibrationDisagree u g) s = .next t ∧ t.setting u g.val p = v + 1 ∧ t.reg (Off.mgtCount + 32) = satAdd (s.reg (Off.mgtCount + 32)) 1 ∧ t.mem = s.mem) ∧
    (s.dealmeg = true → Config.calibrationFloor g.val < v →
      ∃ t, exec (.calibrationRelax u g) s = .next t ∧ t.setting u g.val p = v - 1 ∧ t.reg (Off.mgtCount + 40) = satAdd (s.reg (Off.mgtCount + 40)) 1 ∧ t.mem = s.mem) ∧
    (v ≤ Config.calibrationFloor g.val → exec (.calibrationRelax u g) s = .next s)) ∧
  (∀ (s : State), s.mgmt.boot = .ready →
    exec .calibrationSave s = .next { s with mram := { s.mram with calibration := s.mgmt.settings, energy := s.power.energy } }) ∧
  (∀ (s : State) (m : Fin 64) (v : Word),
    let cfg := s.reg (Off.monCfg m.val)
    bit cfg 23 = true → carries (bits cfg 16 4) (bits cfg 20 3) (BitVec.ofNat 16 (bits cfg 0 16)) = true →
    ∃ t, exec (.monitorSample m v) s = .next t ∧ (t.monitor m.val).last = v ∧ (t.monitor m.val).min.toInt = min (s.monitor m.val).min.toInt v.toInt ∧
      (t.monitor m.val).max.toInt = max (s.monitor m.val).max.toInt v.toInt ∧
      (let b := binOf v (BitVec.ofNat 32 (bits cfg 32 32)) (bits cfg 24 5)
       b < 16 ∧ ∀ j, (Sparse.look (fun _ => 0) (t.monitor m.val).bins j).toNat =
        min (2 ^ 32 - 1) ((Sparse.look (fun _ => 0) (s.monitor m.val).bins j).toNat + if j = b then 1 else 0)) ∧
      (∀ j, j ≠ m.val → t.monitor j = s.monitor j) ∧ t.mem = s.mem ∧ t.cores = s.cores) ∧
  (∀ (s : State) (m : Fin 64) (v : Word),
    let cfg := s.reg (Off.monCfg m.val)
    bit cfg 23 = false ∨ carries (bits cfg 16 4) (bits cfg 20 3) (BitVec.ofNat 16 (bits cfg 0 16)) = false → exec (.monitorSample m v) s = .next s) ∧
  (∀ (s : State) (m : Fin 64) (v : Dword), WriteTaken s (slotWrite (Off.monCfg m.val) (v ||| 0x20000000)) →
    ∃ t, exec (.monitorClear m v) s = .next t ∧ t.monitor m.val = { min := 0x7FFFFFFF, max := 0x80000000, last := (s.monitor m.val).last, bins := [] } ∧
      (∀ j, j ≠ m.val → t.monitor j = s.monitor j) ∧ t.mem = s.mem)

/-- R562, R563, R565, R566: GO begins an update unless a program is loaded or one runs: then STATUS is 5 with 0x6004. An image that passes its checks is written to the slot that did not boot, which boots next (in recovery mode, the one that was to boot); any other, and a read of host memory that fails, leaves both slots and gives its STATUS with 0x6004. COMMIT raises the fused minimum SVN to that of the running firmware and never lowers it. An attestation latches the nonce when it starts, and ends with its report, signature and certificate in host memory, or with 0x6005. -/
def Obligations.UpdatesAndAttestation : Prop :=
  ∀ (s : State),
    (∀ v : Dword, WriteTaken s (slotWrite Off.fwCtl (v ||| 1)) →
      ∃ t, exec (.fwUpdateGo v) s = .next t ∧ t.mem = s.mem ∧
        (bit v 1 = false → t.rom = s.rom) ∧ (bit v 1 = true → t.rom.minSvn.toNat = max s.rom.minSvn.toNat s.mgmt.runSvn.toNat) ∧
        if s.program.isSome || s.sec.fwBusy then t.sec.fwStatus = 5 ∧ t.sec.fwBusy = s.sec.fwBusy ∧ Raised s t 0x6004
        else t.sec.fwStatus = 1 ∧ t.sec.fwBusy = true ∧ t.mgmt = s.mgmt) ∧
    (∀ v : Dword, WriteTaken s (slotWrite Off.fwCtl (v ||| 2)) →
      ∃ t, exec (.fwCommit v) s = .next t ∧ t.rom.minSvn.toNat = max s.rom.minSvn.toNat s.mgmt.runSvn.toNat ∧ t.rom = { s.rom with minSvn := t.rom.minSvn } ∧
        (bit v 0 = false → t.sec = s.sec ∧ t.mgmt = s.mgmt)) ∧
    (∀ l, s.sec.fwBusy = true → s.securityRuns = true →
      let image := l.take (bits (s.reg Off.fwLen) 0 32)
      let b := if s.mgmt.boot = .recovery then s.rom.nextSlot else !s.mgmt.slotB
      ∃ t, exec (.fwUpdateDone (.ok l)) s = .next t ∧ t.sec.fwBusy = false ∧ t.rom.minSvn = s.rom.minSvn ∧
        match imageFault image s.rom with
        | none => t.sec.fwStatus = 2 ∧ t.rom.nextSlot = b ∧ (if b then t.rom.slotB else t.rom.slotA) = imageOf image ∧
            (if b then t.rom.slotA = s.rom.slotA else t.rom.slotB = s.rom.slotB)
        | some code => t.rom = s.rom ∧ t.sec.fwStatus = (if code = 0x6002 then 4 else 3) ∧ Raised s t 0x6004) ∧
    (∀ a read, read = .error a ∨ read = .timeout a → s.sec.fwBusy = true → s.securityRuns = true →
      ∃ t, exec (.fwUpdateDone read) s = .next t ∧ t.sec.fwBusy = false ∧ t.sec.fwStatus = 6 ∧ t.rom = s.rom ∧
        (s.mgmt.queue.length + 2 ≤ 4096 → ∃ z ∈ t.mgmt.queue, z.code = 0x6004)) ∧
    (∀ v : Dword, WriteTaken s (slotWrite Off.attCtl (v ||| 1)) →
      ∃ t, exec (.attestGo v) s = .next t ∧ if s.sec.attStatus = 1 then t = s else t = { s with sec := { s.sec with attStatus := 1, nonce := s.nonceIn } }) ∧
    (∀ ok, s.sec.attStatus = 1 → s.securityRuns = true →
      let a := s.reg Off.attAddr
      ∃ t, exec (.attestDone ok) s = .next t ∧ t.mem = s.mem ∧ t.rom = s.rom ∧
        if a.toNat % 64 = 0 ∧ ok = true then t.sec.attStatus = 2 ∧ t.out = s.out ++ [.host a (attestBytes s)]
        else t.sec.attStatus = (if a.toNat % 64 = 0 then 4 else 3) ∧ (s.mgmt.queue.length + 2 ≤ 4096 → ∃ z ∈ t.mgmt.queue, z.code = 0x6005))

/-- R570 to R574, R581: a watchdog that expires resets the management complex with 0x7001; it restarts when its image still has its digest, unless that was the third reset in 600 s: then Dealmeg stays halted, with 0x6003 or 0x7002. A load window keeps each core's share, and three busy windows in a row are overload: with each further one the background interval doubles up to 16, then the log waits, then the security requests wait, and a window without overload takes the last of these back. A snapshot goes to its place in the ring of the scratch part and is counted, and a ring outside it gives 0x7040. -/
def ManagementKeepsRunning : Prop :=
  ∀ (s : State),
    (∀ c : Fin 4, s.dealmeg = true → ∃ t, exec (.watchdogExpiry c) s = .next t ∧ t.mgmt.resetting = true ∧ t.mgmt.resets = s.mgmt.resets ++ [s.now] ∧ t.mgmt.factor = 1 ∧
      t.dealmeg = false ∧ t.reg Off.mgtCount = satAdd (s.reg Off.mgtCount) 1 ∧ Raised s t 0x7001 ∧ t.mem = s.mem ∧ t.cores = s.cores) ∧
    (s.mgmt.resetting = true → ∃ t, exec .managementRestart s = .next t ∧ t.mgmt.resetting = false ∧ t.mem = s.mem ∧
      if imageHash s.bootSlot ≠ s.mgmt.imageDigest then t.mgmt.halted = true ∧ Raised s t 0x6003
      else if thirdReset s.mgmt.resets then t.mgmt.halted = true ∧ Raised s t 0x7002
      else t.mgmt = { s.mgmt with resetting := false }) ∧
    (∀ busy : List Byte, s.dealmeg = true → ∃ t, exec (.loadWindow busy) s = .next t ∧ t.mgmt.busy = (List.range 4).map (fun c => nth busy c 0) ∧
      (t.mgmt.overload = true ↔ ∃ c < 4, 90 < (nth busy c 0).toNat ∧ 2 ≤ nth s.mgmt.overloadRun c 0) ∧
      (s.mgmt.overload = true → t.mgmt.overload = true → s.mgmt.factor < 16 → t.mgmt.factor = 2 * s.mgmt.factor ∧ (s.mgmt.factor = 1 → Raised s t 0x0040)) ∧
      (s.mgmt.overload = true → t.mgmt.overload = true → 16 ≤ s.mgmt.factor → t.mgmt.factor = s.mgmt.factor ∧
        (s.mgmt.drainStopped = false → t.mgmt.drainStopped = true) ∧ (s.mgmt.drainStopped = true → t.mgmt.secWait = true)) ∧
      (t.mgmt.overload = false → (s.mgmt.secWait = true → t.mgmt.secWait = false ∧ t.mgmt.factor = s.mgmt.factor) ∧
        (s.mgmt.secWait = false → s.mgmt.drainStopped = true → t.mgmt.drainStopped = false ∧ t.mgmt.factor = s.mgmt.factor) ∧
        (s.mgmt.secWait = false → s.mgmt.drainStopped = false → t.mgmt.factor = max 1 (s.mgmt.factor / 2))) ∧ t.mem = s.mem) ∧
    (s.dealmeg = false ∨ bit (s.reg Off.telemCtl) 0 = false → exec .telemetrySnapshot s = .next s) ∧
    (s.dealmeg = true → bit (s.reg Off.telemCtl) 0 = true →
      let a := bits (s.reg Off.telemCtl) 16 24 * stripeBytes
      let p := a + 8192 * (s.mgmt.telemSeq.toNat % 64)
      ∃ t, exec .telemetrySnapshot s = .next t ∧ t.cores = s.cores ∧
        if s.inScratch a (4 * stripeBytes) then
          t.mgmt.telemSeq = s.mgmt.telemSeq + 1 ∧ t.reg (Off.mgtCount + 24) = satAdd (s.reg (Off.mgtCount + 24)) 1 ∧
          ((s.entry (p / stripeBytes)).state = .mapped → t.stackBytes 4 p 8192 = snapshotBytes s)
        else t.mem = s.mem ∧ (s.mgmt.telemOff = false → Raised s t 0x7040))

/-- R570 to R581: watchdog, restart, overload and telemetry; calibration and monitors. -/
def Obligations.ManagementComplex : Prop := CalibrationAndMonitors ∧ ManagementKeepsRunning

/-- A turn takes place: every SH register and the rank table take their shadow values, the turn counts, ARM clears, the refill of the shadow set begins, and a changed trace configuration sends the traces of the cores back to their start (R73). -/
def Turned (s t : State) : Prop :=
  (∀ o ∈ shOffsets, t.act o = s.reg o) ∧ t.fabric.rankActive = s.fabric.rankShadow ∧ bit (t.reg Off.turnCtl) 0 = false ∧ t.mgmt.refilling = true ∧
  t.mgmt.turns.toNat = min (2 ^ 32 - 1) (s.mgmt.turns.toNat + 1) ∧
  (traceRestarts s t = true → ∀ c, (t.core c).tracePos = 0 ∧ (t.core c).traceFull = false)

/-- R582 to R586: arming a turn swaps the sets at once in mode 0, in mode 1 while no step runs, and in mode 2 when its time has come, with LATE and 0x0021 when it has passed; otherwise it waits, and the active set stays. A disarmed turn does not take place; an armed one in mode 2 takes place when its time is reached. While a turn is armed a write of the shadow set is aborted; when the refill ends the writes held meanwhile are applied. -/
def Obligations.TurnsSwapTheSets : Prop :=
  ∀ (s : State),
    (∀ v : Dword, WriteTaken s (slotWrite Off.turnCtl (v ||| 1)) →
      let u := s.setReg Off.turnCtl ((v ||| 1) &&& BitVec.ofNat 64 (writeMask Off.turnCtl))
      let at_ := s.reg Off.turnTime
      let now_ := u.turnMode = 0 ∨ (u.turnMode = 1 ∧ s.step = none) ∨ (u.turnMode = 2 ∧ at_.toNat ≤ s.now.toNat)
      ∃ t, exec (.turnArm v) s = .next t ∧ t.mem.stack = s.mem.stack ∧ (now_ → Turned s t) ∧
        (¬ now_ → t = u ∧ t.active = s.active ∧ bit (t.reg Off.turnCtl) 0 = true) ∧
        (u.turnMode = 2 → at_.toNat < s.now.toNat → t.mgmt.late = true ∧ Raised s t 0x0021)) ∧
    (∀ v : Dword, WriteTaken s (slotWrite Off.turnCtl (v &&& ~~~1#64)) →
      ∃ t, exec (.turnDisarm v) s = .next t ∧ bit (t.reg Off.turnCtl) 0 = false ∧ { s with regs := t.regs } = t ∧ ∀ o, o ≠ Off.turnCtl → t.reg o = s.reg o) ∧
    (if s.frozen = true ∧ s.turnMode = 2 ∧ (s.reg Off.turnTime).toNat ≤ s.now.toNat then ∃ t, exec .turnTimeReached s = .next t ∧ Turned s t ∧ t.mem.stack = s.mem.stack
      else exec .turnTimeReached s = .next s) ∧
    (s.frozen = true → s.mgmt.boot ≠ .recovery → ∀ o ∈ shOffsets, ∀ v, violation (slotWrite o v) s = some .abort) ∧
    (s.mgmt.refilling = true → ∃ t, exec .shadowRefillDone s = .next t ∧ t.mgmt = { s.mgmt with refilling := false, heldWrites := [] } ∧ t.active = s.active ∧ t.mem = s.mem ∧
      (s.mgmt.heldWrites = [] → t.regs = s.regs) ∧
      (∀ o w v, s.mgmt.heldWrites = [(o, w, v)] → t.reg (slotOf o) = mergeWrite (s.reg (slotOf o)) o w v &&& BitVec.ofNat 64 (writeMask (slotOf o)) ∧
        ∀ k, k ≠ slotOf o → t.reg k = s.reg k)) ∧
    (s.mgmt.refilling = false → exec .shadowRefillDone s = .next s)

/-- R8, R10, R11, R582, R583, R589, R592: a write of 4 or 8 bytes to a shadow register changes its half or the whole of it within its fields, and neither the active set nor any other register; during a refill it is held instead. A write to a read-only register changes nothing. A 1 written to a bit of a W1C register clears it, and a 0 leaves it. SEC_FW_ADDR reads back as it was written. -/
def RegisterWrites : Prop :=
  (∀ (s : State) (o w : Nat) (v : Dword), WriteTaken s (barWrite o w v) → slotOf o ∈ shOffsets →
    if s.mgmt.refilling then exec (.registerWrite o w v) s = .next { s with mgmt := { s.mgmt with heldWrites := s.mgmt.heldWrites ++ [(o, w, v)] } }
    else ∃ t, exec (.registerWrite o w v) s = .next t ∧ { s with regs := t.regs } = t ∧
      t.reg (slotOf o) = (if w = 8 then v else if o % 8 = 0 then putBits (s.reg (slotOf o)) 0 32 v.toNat else putBits (s.reg (slotOf o)) 32 32 v.toNat) &&&
        BitVec.ofNat 64 (writeMask (slotOf o)) ∧
      ∀ k, k ≠ slotOf o → t.reg k = s.reg k) ∧
  (∀ (s : State) (o w : Nat) (v : Dword), WriteTaken s (barWrite o w v) → slotOf o ∈ [Off.cap, Off.mxStatus 0, Off.qzCount, Off.mxCount, Off.vxCount, Off.uuCount, Off.lxCount, Off.coreMap, Off.relCount, Off.capacity, Off.memCount, Off.memChan, Off.fabCount, Off.hifCount, Off.pwrStatus, Off.energy, Off.time, Off.bootStatus, Off.mgtCount, Off.logSeq, Off.secId, Off.secSvn] →
    exec (.registerWrite o w v) s = .next s) ∧
  (∀ (s : State) (v : Dword),
    (WriteTaken s (barWrite Off.detStatus 8 v) →
      ∃ t, exec (.w1cClear Off.detStatus v) s = .next t ∧ { s with regs := t.regs } = t ∧ t.reg Off.detStatus = s.reg Off.detStatus &&& ~~~(v &&& 7)) ∧
    (WriteTaken s (barWrite Off.errInfo 8 v) → ∃ t, exec (.w1cClear Off.errInfo v) s = .next t ∧
      if bit v 0 then bit (t.reg Off.errInfo) 0 = false ∧ bits (t.reg Off.errInfo) 32 32 = 0 ∧ { s with regs := t.regs } = t else t = s) ∧
    (WriteTaken s (barWrite Off.turnStatus 8 v) →
      exec (.w1cClear Off.turnStatus v) s = .next { s with mgmt := { s.mgmt with late := s.mgmt.late && !bit v 32, cancelled := s.mgmt.cancelled && !bit v 33 } })) ∧
  (∀ (s : State) (v : Dword), WriteTaken s (barWrite Off.fwAddr 8 v) →
    ∃ t, exec (.registerWrite Off.fwAddr 8 v) s = .next t ∧ readSlot Off.fwAddr t = v ∧ { s with regs := t.regs } = t ∧ ∀ k, k ≠ Off.fwAddr → t.reg k = s.reg k)

/-- R8 to R11, R381, R436, R582, R583, R589, R592: host writes of registers, and of those that arm injections. -/
def Obligations.RegisterAccess : Prop := RegisterWrites ∧ InjectionsArmOnlyInTestJobs

/-- R610, R611: over I3C one byte sets the read pointer and a read returns the page from there on, which is refreshed as a whole; over the test port BYPASS delays a bit by one, IDCODE shifts the device's code out, and the boundary cells take new values, in EXTEST only while RESET_N is low. What the cells held is no value of the manual's (log 2). -/
def Obligations.SidebandPins : Prop :=
  ∀ (s : State),
    (s.mgmt.boot ≠ .off →
      (∀ n, s.pins.ptr + n ≤ s.pins.page.length →
        ∃ t, exec (.i3cPrivateRead n) s = .next t ∧ t.out = s.out ++ [.i3c ((s.pins.page.drop s.pins.ptr).take n)] ∧ t.pins = s.pins ∧ t.mem = s.mem) ∧
      (∀ b : Byte, exec (.i3cPointerWrite [b]) s = .next { s with pins := { s.pins with ptr := b.toNat } }) ∧
      (∃ t, exec .i3cStatusRefresh s = .next t ∧ t.pins.page.length = 32 ∧ { s with pins := { s.pins with page := t.pins.page } } = t ∧
        nth t.pins.page 1 0 = s.mram.cause ∧ byteField t.pins.page 12 8 = s.rom.serial.toNat ∧ byteField t.pins.page 20 8 = s.power.energy.toNat)) ∧
    (∀ l : List Byte, l.length ≠ 1 → exec (.i3cPointerWrite l) s = .next s) ∧
    (s.mgmt.boot = .off → (∀ n, exec (.i3cPrivateRead n) s = .next s) ∧ (∀ l, exec (.i3cPointerWrite l) s = .next s) ∧ exec .i3cStatusRefresh s = .next s) ∧
    (∀ b, ∃ t, exec (.bypass b) s = .next t ∧ t.out = s.out ++ [.tdo (if s.pins.bypassBit then 1 else 0)] ∧ t.pins = { s.pins with bypassBit := b } ∧ t.mem = s.mem) ∧
    (exec .idcode s = .next (s.emit (.tdo 0x14B42C6B))) ∧
    (∀ cells, ∃ t l, exec (.samplePreload cells) s = .next t ∧ t.pins = { s.pins with cells := cells } ∧ t.out = s.out ++ [.tdoCells l] ∧ l.length = cells.length ∧ t.mem = s.mem) ∧
    (∀ cells, s.pins.resetN = false → ∃ t, exec (.extest cells) s = .next t ∧ t.pins = { s.pins with cells := cells }) ∧
    (∀ cells, s.pins.resetN = true → ∃ t, exec (.extest cells) s = .next t ∧ t.pins.cells = s.pins.cells ∧ t.out.length = s.out.length + cells.length ∧ t.mem = s.mem)
/-! ### Rules of the whole block -/

/-- The model's form (R298 gives what a codeword holds; the list of words and the queue are the model's): every step keeps the stacks' words in their canonical form, and takes exactly one command off a queue that is not empty. -/
def Obligations.StepsKeepCanonicalMemory : Prop :=
  ∀ (s t : State), step s = .next t → Memory.wf s.mem.stack = true → Memory.wf t.mem.stack = true ∧ t.pending = s.pending.tail

/-- R384, R385, R559, R563, R564: no step ever changes a fused value other than the minimum SVN, lowers the minimum SVN, or writes a slot of the pinned area that is in use. -/
def Obligations.FusesAndPinnedRecordsLast : Prop :=
  ∀ (s t : State), step s = .next t →
    t.rom.serial = s.rom.serial ∧ t.rom.secret = s.rom.secret ∧ t.rom.keyHash = s.rom.keyHash ∧ t.rom.revoked = s.rom.revoked ∧ t.rom.grade240 = s.rom.grade240 ∧
    t.rom.fused = s.rom.fused ∧ t.rom.cert = s.rom.cert ∧ s.rom.minSvn.toNat ≤ t.rom.minSvn.toNat ∧ s.mram.pinnedUsed ≤ t.mram.pinnedUsed ∧
    ∀ k < s.mram.pinnedUsed, Sparse.look (fun _ => none) t.mram.pinned k = Sparse.look (fun _ => none) s.mram.pinned k

/-- R284, R298, R555: after a device reset the stacks hold the codeword of zero in canonical form, the map is the identity on the logical stripes with the reserve FREE above, every ring is disabled, every port DOWN, no program is loaded, and no command waits. -/
def Obligations.ResetState : Prop :=
  Memory.wf State.reset.mem.stack = true ∧ (∀ k, State.reset.stored k = 0) ∧
  (∀ n < 571392, State.reset.entry n = { state := .mapped, loc := ⟨n % 384, n / 384⟩, loc2 := none }) ∧
  (∀ n < 18432, State.reset.entry (571392 + n) = { state := .free, loc := ⟨n % 384, 1488 + n / 384⟩, loc2 := none }) ∧
  (∀ r, (State.reset.sq r).state = .disabled ∧ (State.reset.cq r).enabled = false) ∧ (∀ p, (State.reset.port p).link = .down) ∧
  State.reset.program = none ∧ State.reset.step = none ∧ State.reset.pending = []
end

