-- ==== Sys2Proof/Laws/Sparse.lean ====
section
/-! SUPPORT. Reading after writing sparse data, and that writing keeps its canonical form. -/

namespace Sys2Proof.Machine

variable {α : Type} (d : Nat → α)

theorem Sparse.look_erase_same (m : Sparse α) (k : Nat) : Sparse.look d (Sparse.erase m k) k = d k := by
  induction m with
  | nil => rfl
  | cons p r ih =>
    obtain ⟨j, w⟩ := p
    by_cases h : j = k
    · subst h; simpa [Sparse.erase] using ih
    · simpa [Sparse.erase, Sparse.look, h] using ih

theorem Sparse.look_erase_ne (m : Sparse α) {k j : Nat} (h : j ≠ k) : Sparse.look d (Sparse.erase m k) j = Sparse.look d m j := by
  induction m with
  | nil => rfl
  | cons p r ih =>
    obtain ⟨i, w⟩ := p
    by_cases h1 : i = k
    · have h2 : i ≠ j := fun e => h (e.symm.trans h1)
      have h3 : k ≠ j := fun e => h e.symm
      subst h1
      simpa [Sparse.erase, Sparse.look, h2] using ih
    · by_cases h2 : i = j
      · subst h2; simp [Sparse.erase, Sparse.look, h1]
      · simpa [Sparse.erase, Sparse.look, h1, h2] using ih

theorem Sparse.look_place_ne (m : Sparse α) {k j : Nat} (v : α) (h : j ≠ k) :
    Sparse.look d (Sparse.place m k v) j = Sparse.look d m j := by
  have hk : k ≠ j := fun e => h e.symm
  induction m with
  | nil => simp [Sparse.place, Sparse.look, hk]
  | cons p r ih =>
    obtain ⟨i, w⟩ := p
    by_cases h1 : k < i
    · simp [Sparse.place, Sparse.look, h1, hk]
    · by_cases h2 : i = j
      · subst h2; simp [Sparse.place, Sparse.look, h1]
      · simpa [Sparse.place, Sparse.look, h1, h2] using ih

theorem Sparse.look_place_same (m : Sparse α) (k : Nat) (v : α) (h : ∀ x ∈ m, x.1 ≠ k) :
    Sparse.look d (Sparse.place m k v) k = v := by
  induction m with
  | nil => simp [Sparse.place, Sparse.look]
  | cons p r ih =>
    obtain ⟨i, w⟩ := p
    have hi : i ≠ k := h (i, w) (by simp)
    by_cases h1 : k < i
    · simp [Sparse.place, Sparse.look, h1]
    · simpa [Sparse.place, Sparse.look, h1, hi] using ih (fun x hx => h x (by simp [hx]))

variable [DecidableEq α]

/-- The written key reads as the value written. -/
theorem Sparse.look_store (m : Sparse α) (k : Nat) (v : α) : Sparse.look d (Sparse.store d m k v) k = v := by
  unfold Sparse.store
  split
  · rename_i h; rw [Sparse.look_erase_same, h]
  · exact Sparse.look_place_same d _ _ _ (by intro x hx; simpa [Sparse.erase] using (List.mem_filter.mp hx).2)

/-- Every other key reads as before. -/
theorem Sparse.look_store_ne (m : Sparse α) {k j : Nat} (v : α) (h : j ≠ k) :
    Sparse.look d (Sparse.store d m k v) j = Sparse.look d m j := by
  unfold Sparse.store
  split
  · exact Sparse.look_erase_ne d m h
  · rw [Sparse.look_place_ne d _ v h, Sparse.look_erase_ne d m h]

/-- What a key reads as after a write. -/
theorem Sparse.look_store_eq (m : Sparse α) (k j : Nat) (v : α) :
    Sparse.look d (Sparse.store d m k v) j = if j = k then v else Sparse.look d m j := by
  split
  · rename_i h; subst h; exact Sparse.look_store d m _ v
  · rename_i h; exact Sparse.look_store_ne d m v h

/-- Nothing listed is canonical. -/
theorem Sparse.nil_wf : Sparse.wf d ([] : Sparse α) = true := rfl

/-- Leaving out entries keeps the canonical form. -/
theorem Sparse.filter_above {b : Option Nat} {m : Sparse α} (p : Nat × α → Bool) (h : Sparse.above d b m = true) :
    Sparse.above d b (m.filter p) = true := by
  induction m generalizing b with
  | nil => rfl
  | cons x r ih =>
    obtain ⟨j, w⟩ := x
    simp only [Sparse.above, Bool.and_eq_true, decide_eq_true_eq] at h
    obtain ⟨⟨hb, hw⟩, hr⟩ := h
    have low : ∀ (c : Option Nat) (l : Sparse α), Sparse.above d (some j) l = true → (∀ y, c = some y → y < j) → Sparse.above d c l = true := by
      intro c l hl hc
      cases l with
      | nil => rfl
      | cons q t =>
        simp only [Sparse.above, Bool.and_eq_true, decide_eq_true_eq] at hl ⊢
        cases c with
        | none => exact ⟨⟨rfl, hl.1.2⟩, hl.2⟩
        | some y => have := hc y rfl; exact ⟨⟨by simp; omega, hl.1.2⟩, hl.2⟩
    by_cases hp : p (j, w) = true
    · simp only [List.filter_cons, hp, if_true, Sparse.above, Bool.and_eq_true, decide_eq_true_eq]
      exact ⟨⟨hb, hw⟩, ih hr⟩
    · simp only [List.filter_cons, hp]
      exact low b _ (ih hr) (by intro y hy; subst hy; simpa using hb)

/-- Leaving out entries keeps the canonical form. -/
theorem Sparse.filter_wf {m : Sparse α} (p : Nat × α → Bool) (h : Sparse.wf d m = true) : Sparse.wf d (m.filter p) = true :=
  Sparse.filter_above d p h

/-- Listing an absent key keeps the canonical form above a bound below it. -/
theorem Sparse.place_above {b : Option Nat} {m : Sparse α} {k : Nat} (v : α) (h : Sparse.above d b m = true)
    (hk : ∀ x, b = some x → x < k) (hv : v ≠ d k) (hm : ∀ x ∈ m, x.1 ≠ k) : Sparse.above d b (Sparse.place m k v) = true := by
  induction m generalizing b with
  | nil =>
    cases b with
    | none => simp [Sparse.place, Sparse.above, hv]
    | some x => simp [Sparse.place, Sparse.above, hv, hk x rfl]
  | cons p r ih =>
    obtain ⟨j, w⟩ := p
    have hj : j ≠ k := hm (j, w) (by simp)
    simp only [Sparse.above, Bool.and_eq_true, decide_eq_true_eq] at h
    obtain ⟨⟨hb, hw⟩, hr⟩ := h
    by_cases h1 : k < j
    · cases b with
      | none => simp [Sparse.place, h1, hv, Sparse.above, hw, hr]
      | some x => simp [Sparse.place, h1, hv, Sparse.above, hw, hr, hk x rfl]
    · simp only [Sparse.place, h1, if_false, Sparse.above, Bool.and_eq_true, decide_eq_true_eq]
      exact ⟨⟨hb, hw⟩, ih hr (by intro x hx; cases hx; omega) (fun x hx => hm x (by simp [hx]))⟩

/-- A write keeps the canonical form. -/
theorem Sparse.store_wf {m : Sparse α} (k : Nat) (v : α) (h : Sparse.wf d m = true) : Sparse.wf d (Sparse.store d m k v) = true := by
  unfold Sparse.store
  split
  · exact Sparse.filter_wf d _ h
  · rename_i hv
    exact Sparse.place_above d v (Sparse.filter_wf d _ h) (by intro x hx; cases hx) hv
      (by intro x hx; simpa [Sparse.erase] using (List.mem_filter.mp hx).2)

/-- Changing every value keeps the canonical form. -/
theorem Sparse.mapVals_wf (f : α → α) (m : Sparse α) : Sparse.wf d (Sparse.mapVals d f m) = true := by
  have key : ∀ (l : Sparse α) (r : Sparse α), Sparse.wf d r = true →
      Sparse.wf d (l.foldl (fun r x => Sparse.store d r x.1 (f x.2)) r) = true := by
    intro l
    induction l with
    | nil => intro r h; exact h
    | cons x t ih => intro r h; exact ih _ (Sparse.store_wf d _ _ h)
  exact key m [] rfl

end Sys2Proof.Machine
end

