-- ==== Sys2Proof/Laws/State.lean ====
section
/-! SUPPORT. What each named update of the state leaves as it was: one lemma for each field, true by unfolding. -/

namespace Sys2Proof.Machine

variable (s : State)

@[simp] theorem State.setReg_pending (o : Nat) (v : Dword) : (s.setReg o v).pending = s.pending := rfl
@[simp] theorem State.setReg_free (o : Nat) (v : Dword) : (s.setReg o v).free = s.free := rfl
@[simp] theorem State.setReg_out (o : Nat) (v : Dword) : (s.setReg o v).out = s.out := rfl
@[simp] theorem State.setReg_active (o : Nat) (v : Dword) : (s.setReg o v).active = s.active := rfl
@[simp] theorem State.setReg_job (o : Nat) (v : Dword) : (s.setReg o v).job = s.job := rfl
@[simp] theorem State.setReg_cores (o : Nat) (v : Dword) : (s.setReg o v).cores = s.cores := rfl
@[simp] theorem State.setReg_units (o : Nat) (v : Dword) : (s.setReg o v).units = s.units := rfl
@[simp] theorem State.setReg_phys (o : Nat) (v : Dword) : (s.setReg o v).phys = s.phys := rfl
@[simp] theorem State.setReg_confirm (o : Nat) (v : Dword) : (s.setReg o v).confirm = s.confirm := rfl
@[simp] theorem State.setReg_due (o : Nat) (v : Dword) : (s.setReg o v).due = s.due := rfl
@[simp] theorem State.setReg_turns (o : Nat) (v : Dword) : (s.setReg o v).turns = s.turns := rfl
@[simp] theorem State.setReg_mram (o : Nat) (v : Dword) : (s.setReg o v).mram = s.mram := rfl
@[simp] theorem State.setReg_rom (o : Nat) (v : Dword) : (s.setReg o v).rom = s.rom := rfl
@[simp] theorem State.setReg_mem (o : Nat) (v : Dword) : (s.setReg o v).mem = s.mem := rfl
@[simp] theorem State.setReg_program (o : Nat) (v : Dword) : (s.setReg o v).program = s.program := rfl
@[simp] theorem State.setReg_step (o : Nat) (v : Dword) : (s.setReg o v).step = s.step := rfl
@[simp] theorem State.setReg_last (o : Nat) (v : Dword) : (s.setReg o v).last = s.last := rfl
@[simp] theorem State.setReg_goodStep (o : Nat) (v : Dword) : (s.setReg o v).goodStep = s.goodStep := rfl
@[simp] theorem State.setReg_intact (o : Nat) (v : Dword) : (s.setReg o v).intact = s.intact := rfl
@[simp] theorem State.setReg_sparesOut (o : Nat) (v : Dword) : (s.setReg o v).sparesOut = s.sparesOut := rfl
@[simp] theorem State.setReg_unclassified (o : Nat) (v : Dword) : (s.setReg o v).unclassified = s.unclassified := rfl
@[simp] theorem State.setReg_fabric (o : Nat) (v : Dword) : (s.setReg o v).fabric = s.fabric := rfl
@[simp] theorem State.setReg_eth (o : Nat) (v : Dword) : (s.setReg o v).eth = s.eth := rfl
@[simp] theorem State.setReg_host (o : Nat) (v : Dword) : (s.setReg o v).host = s.host := rfl
@[simp] theorem State.setReg_power (o : Nat) (v : Dword) : (s.setReg o v).power = s.power := rfl
@[simp] theorem State.setReg_clock (o : Nat) (v : Dword) : (s.setReg o v).clock = s.clock := rfl
@[simp] theorem State.setReg_mgmt (o : Nat) (v : Dword) : (s.setReg o v).mgmt = s.mgmt := rfl
@[simp] theorem State.setReg_sec (o : Nat) (v : Dword) : (s.setReg o v).sec = s.sec := rfl
@[simp] theorem State.setReg_pins (o : Nat) (v : Dword) : (s.setReg o v).pins = s.pins := rfl

@[simp] theorem State.setField_pending (o lo n v : Nat) : (s.setField o lo n v).pending = s.pending := rfl
@[simp] theorem State.setField_free (o lo n v : Nat) : (s.setField o lo n v).free = s.free := rfl
@[simp] theorem State.setField_out (o lo n v : Nat) : (s.setField o lo n v).out = s.out := rfl
@[simp] theorem State.setField_active (o lo n v : Nat) : (s.setField o lo n v).active = s.active := rfl
@[simp] theorem State.setField_job (o lo n v : Nat) : (s.setField o lo n v).job = s.job := rfl
@[simp] theorem State.setField_cores (o lo n v : Nat) : (s.setField o lo n v).cores = s.cores := rfl
@[simp] theorem State.setField_units (o lo n v : Nat) : (s.setField o lo n v).units = s.units := rfl
@[simp] theorem State.setField_phys (o lo n v : Nat) : (s.setField o lo n v).phys = s.phys := rfl
@[simp] theorem State.setField_confirm (o lo n v : Nat) : (s.setField o lo n v).confirm = s.confirm := rfl
@[simp] theorem State.setField_due (o lo n v : Nat) : (s.setField o lo n v).due = s.due := rfl
@[simp] theorem State.setField_turns (o lo n v : Nat) : (s.setField o lo n v).turns = s.turns := rfl
@[simp] theorem State.setField_mram (o lo n v : Nat) : (s.setField o lo n v).mram = s.mram := rfl
@[simp] theorem State.setField_rom (o lo n v : Nat) : (s.setField o lo n v).rom = s.rom := rfl
@[simp] theorem State.setField_mem (o lo n v : Nat) : (s.setField o lo n v).mem = s.mem := rfl
@[simp] theorem State.setField_program (o lo n v : Nat) : (s.setField o lo n v).program = s.program := rfl
@[simp] theorem State.setField_step (o lo n v : Nat) : (s.setField o lo n v).step = s.step := rfl
@[simp] theorem State.setField_last (o lo n v : Nat) : (s.setField o lo n v).last = s.last := rfl
@[simp] theorem State.setField_goodStep (o lo n v : Nat) : (s.setField o lo n v).goodStep = s.goodStep := rfl
@[simp] theorem State.setField_intact (o lo n v : Nat) : (s.setField o lo n v).intact = s.intact := rfl
@[simp] theorem State.setField_sparesOut (o lo n v : Nat) : (s.setField o lo n v).sparesOut = s.sparesOut := rfl
@[simp] theorem State.setField_unclassified (o lo n v : Nat) : (s.setField o lo n v).unclassified = s.unclassified := rfl
@[simp] theorem State.setField_fabric (o lo n v : Nat) : (s.setField o lo n v).fabric = s.fabric := rfl
@[simp] theorem State.setField_eth (o lo n v : Nat) : (s.setField o lo n v).eth = s.eth := rfl
@[simp] theorem State.setField_host (o lo n v : Nat) : (s.setField o lo n v).host = s.host := rfl
@[simp] theorem State.setField_power (o lo n v : Nat) : (s.setField o lo n v).power = s.power := rfl
@[simp] theorem State.setField_clock (o lo n v : Nat) : (s.setField o lo n v).clock = s.clock := rfl
@[simp] theorem State.setField_mgmt (o lo n v : Nat) : (s.setField o lo n v).mgmt = s.mgmt := rfl
@[simp] theorem State.setField_sec (o lo n v : Nat) : (s.setField o lo n v).sec = s.sec := rfl
@[simp] theorem State.setField_pins (o lo n v : Nat) : (s.setField o lo n v).pins = s.pins := rfl

@[simp] theorem State.count_pending (b n k : Nat) : (s.count b n k).pending = s.pending := rfl
@[simp] theorem State.count_free (b n k : Nat) : (s.count b n k).free = s.free := rfl
@[simp] theorem State.count_out (b n k : Nat) : (s.count b n k).out = s.out := rfl
@[simp] theorem State.count_active (b n k : Nat) : (s.count b n k).active = s.active := rfl
@[simp] theorem State.count_job (b n k : Nat) : (s.count b n k).job = s.job := rfl
@[simp] theorem State.count_cores (b n k : Nat) : (s.count b n k).cores = s.cores := rfl
@[simp] theorem State.count_units (b n k : Nat) : (s.count b n k).units = s.units := rfl
@[simp] theorem State.count_phys (b n k : Nat) : (s.count b n k).phys = s.phys := rfl
@[simp] theorem State.count_confirm (b n k : Nat) : (s.count b n k).confirm = s.confirm := rfl
@[simp] theorem State.count_due (b n k : Nat) : (s.count b n k).due = s.due := rfl
@[simp] theorem State.count_turns (b n k : Nat) : (s.count b n k).turns = s.turns := rfl
@[simp] theorem State.count_mram (b n k : Nat) : (s.count b n k).mram = s.mram := rfl
@[simp] theorem State.count_rom (b n k : Nat) : (s.count b n k).rom = s.rom := rfl
@[simp] theorem State.count_mem (b n k : Nat) : (s.count b n k).mem = s.mem := rfl
@[simp] theorem State.count_program (b n k : Nat) : (s.count b n k).program = s.program := rfl
@[simp] theorem State.count_step (b n k : Nat) : (s.count b n k).step = s.step := rfl
@[simp] theorem State.count_last (b n k : Nat) : (s.count b n k).last = s.last := rfl
@[simp] theorem State.count_goodStep (b n k : Nat) : (s.count b n k).goodStep = s.goodStep := rfl
@[simp] theorem State.count_intact (b n k : Nat) : (s.count b n k).intact = s.intact := rfl
@[simp] theorem State.count_sparesOut (b n k : Nat) : (s.count b n k).sparesOut = s.sparesOut := rfl
@[simp] theorem State.count_unclassified (b n k : Nat) : (s.count b n k).unclassified = s.unclassified := rfl
@[simp] theorem State.count_fabric (b n k : Nat) : (s.count b n k).fabric = s.fabric := rfl
@[simp] theorem State.count_eth (b n k : Nat) : (s.count b n k).eth = s.eth := rfl
@[simp] theorem State.count_host (b n k : Nat) : (s.count b n k).host = s.host := rfl
@[simp] theorem State.count_power (b n k : Nat) : (s.count b n k).power = s.power := rfl
@[simp] theorem State.count_clock (b n k : Nat) : (s.count b n k).clock = s.clock := rfl
@[simp] theorem State.count_mgmt (b n k : Nat) : (s.count b n k).mgmt = s.mgmt := rfl
@[simp] theorem State.count_sec (b n k : Nat) : (s.count b n k).sec = s.sec := rfl
@[simp] theorem State.count_pins (b n k : Nat) : (s.count b n k).pins = s.pins := rfl

@[simp] theorem State.skipFree_pending (n : Nat) : (s.skipFree n).pending = s.pending := rfl
@[simp] theorem State.skipFree_out (n : Nat) : (s.skipFree n).out = s.out := rfl
@[simp] theorem State.skipFree_regs (n : Nat) : (s.skipFree n).regs = s.regs := rfl
@[simp] theorem State.skipFree_active (n : Nat) : (s.skipFree n).active = s.active := rfl
@[simp] theorem State.skipFree_job (n : Nat) : (s.skipFree n).job = s.job := rfl
@[simp] theorem State.skipFree_cores (n : Nat) : (s.skipFree n).cores = s.cores := rfl
@[simp] theorem State.skipFree_units (n : Nat) : (s.skipFree n).units = s.units := rfl
@[simp] theorem State.skipFree_phys (n : Nat) : (s.skipFree n).phys = s.phys := rfl
@[simp] theorem State.skipFree_confirm (n : Nat) : (s.skipFree n).confirm = s.confirm := rfl
@[simp] theorem State.skipFree_due (n : Nat) : (s.skipFree n).due = s.due := rfl
@[simp] theorem State.skipFree_turns (n : Nat) : (s.skipFree n).turns = s.turns := rfl
@[simp] theorem State.skipFree_mram (n : Nat) : (s.skipFree n).mram = s.mram := rfl
@[simp] theorem State.skipFree_rom (n : Nat) : (s.skipFree n).rom = s.rom := rfl
@[simp] theorem State.skipFree_mem (n : Nat) : (s.skipFree n).mem = s.mem := rfl
@[simp] theorem State.skipFree_program (n : Nat) : (s.skipFree n).program = s.program := rfl
@[simp] theorem State.skipFree_step (n : Nat) : (s.skipFree n).step = s.step := rfl
@[simp] theorem State.skipFree_last (n : Nat) : (s.skipFree n).last = s.last := rfl
@[simp] theorem State.skipFree_goodStep (n : Nat) : (s.skipFree n).goodStep = s.goodStep := rfl
@[simp] theorem State.skipFree_intact (n : Nat) : (s.skipFree n).intact = s.intact := rfl
@[simp] theorem State.skipFree_sparesOut (n : Nat) : (s.skipFree n).sparesOut = s.sparesOut := rfl
@[simp] theorem State.skipFree_unclassified (n : Nat) : (s.skipFree n).unclassified = s.unclassified := rfl
@[simp] theorem State.skipFree_fabric (n : Nat) : (s.skipFree n).fabric = s.fabric := rfl
@[simp] theorem State.skipFree_eth (n : Nat) : (s.skipFree n).eth = s.eth := rfl
@[simp] theorem State.skipFree_host (n : Nat) : (s.skipFree n).host = s.host := rfl
@[simp] theorem State.skipFree_power (n : Nat) : (s.skipFree n).power = s.power := rfl
@[simp] theorem State.skipFree_clock (n : Nat) : (s.skipFree n).clock = s.clock := rfl
@[simp] theorem State.skipFree_mgmt (n : Nat) : (s.skipFree n).mgmt = s.mgmt := rfl
@[simp] theorem State.skipFree_sec (n : Nat) : (s.skipFree n).sec = s.sec := rfl
@[simp] theorem State.skipFree_pins (n : Nat) : (s.skipFree n).pins = s.pins := rfl

@[simp] theorem State.emit_pending (x : Out) : (s.emit x).pending = s.pending := rfl
@[simp] theorem State.emit_free (x : Out) : (s.emit x).free = s.free := rfl
@[simp] theorem State.emit_regs (x : Out) : (s.emit x).regs = s.regs := rfl
@[simp] theorem State.emit_active (x : Out) : (s.emit x).active = s.active := rfl
@[simp] theorem State.emit_job (x : Out) : (s.emit x).job = s.job := rfl
@[simp] theorem State.emit_cores (x : Out) : (s.emit x).cores = s.cores := rfl
@[simp] theorem State.emit_units (x : Out) : (s.emit x).units = s.units := rfl
@[simp] theorem State.emit_phys (x : Out) : (s.emit x).phys = s.phys := rfl
@[simp] theorem State.emit_confirm (x : Out) : (s.emit x).confirm = s.confirm := rfl
@[simp] theorem State.emit_due (x : Out) : (s.emit x).due = s.due := rfl
@[simp] theorem State.emit_turns (x : Out) : (s.emit x).turns = s.turns := rfl
@[simp] theorem State.emit_mram (x : Out) : (s.emit x).mram = s.mram := rfl
@[simp] theorem State.emit_rom (x : Out) : (s.emit x).rom = s.rom := rfl
@[simp] theorem State.emit_mem (x : Out) : (s.emit x).mem = s.mem := rfl
@[simp] theorem State.emit_program (x : Out) : (s.emit x).program = s.program := rfl
@[simp] theorem State.emit_step (x : Out) : (s.emit x).step = s.step := rfl
@[simp] theorem State.emit_last (x : Out) : (s.emit x).last = s.last := rfl
@[simp] theorem State.emit_goodStep (x : Out) : (s.emit x).goodStep = s.goodStep := rfl
@[simp] theorem State.emit_intact (x : Out) : (s.emit x).intact = s.intact := rfl
@[simp] theorem State.emit_sparesOut (x : Out) : (s.emit x).sparesOut = s.sparesOut := rfl
@[simp] theorem State.emit_unclassified (x : Out) : (s.emit x).unclassified = s.unclassified := rfl
@[simp] theorem State.emit_fabric (x : Out) : (s.emit x).fabric = s.fabric := rfl
@[simp] theorem State.emit_eth (x : Out) : (s.emit x).eth = s.eth := rfl
@[simp] theorem State.emit_host (x : Out) : (s.emit x).host = s.host := rfl
@[simp] theorem State.emit_power (x : Out) : (s.emit x).power = s.power := rfl
@[simp] theorem State.emit_clock (x : Out) : (s.emit x).clock = s.clock := rfl
@[simp] theorem State.emit_mgmt (x : Out) : (s.emit x).mgmt = s.mgmt := rfl
@[simp] theorem State.emit_sec (x : Out) : (s.emit x).sec = s.sec := rfl
@[simp] theorem State.emit_pins (x : Out) : (s.emit x).pins = s.pins := rfl

@[simp] theorem State.setCore_pending (c : CoreRef) (v : CoreSt) : (s.setCore c v).pending = s.pending := rfl
@[simp] theorem State.setCore_free (c : CoreRef) (v : CoreSt) : (s.setCore c v).free = s.free := rfl
@[simp] theorem State.setCore_out (c : CoreRef) (v : CoreSt) : (s.setCore c v).out = s.out := rfl
@[simp] theorem State.setCore_regs (c : CoreRef) (v : CoreSt) : (s.setCore c v).regs = s.regs := rfl
@[simp] theorem State.setCore_active (c : CoreRef) (v : CoreSt) : (s.setCore c v).active = s.active := rfl
@[simp] theorem State.setCore_job (c : CoreRef) (v : CoreSt) : (s.setCore c v).job = s.job := rfl
@[simp] theorem State.setCore_units (c : CoreRef) (v : CoreSt) : (s.setCore c v).units = s.units := rfl
@[simp] theorem State.setCore_phys (c : CoreRef) (v : CoreSt) : (s.setCore c v).phys = s.phys := rfl
@[simp] theorem State.setCore_confirm (c : CoreRef) (v : CoreSt) : (s.setCore c v).confirm = s.confirm := rfl
@[simp] theorem State.setCore_due (c : CoreRef) (v : CoreSt) : (s.setCore c v).due = s.due := rfl
@[simp] theorem State.setCore_turns (c : CoreRef) (v : CoreSt) : (s.setCore c v).turns = s.turns := rfl
@[simp] theorem State.setCore_mram (c : CoreRef) (v : CoreSt) : (s.setCore c v).mram = s.mram := rfl
@[simp] theorem State.setCore_rom (c : CoreRef) (v : CoreSt) : (s.setCore c v).rom = s.rom := rfl
@[simp] theorem State.setCore_mem (c : CoreRef) (v : CoreSt) : (s.setCore c v).mem = s.mem := rfl
@[simp] theorem State.setCore_program (c : CoreRef) (v : CoreSt) : (s.setCore c v).program = s.program := rfl
@[simp] theorem State.setCore_step (c : CoreRef) (v : CoreSt) : (s.setCore c v).step = s.step := rfl
@[simp] theorem State.setCore_last (c : CoreRef) (v : CoreSt) : (s.setCore c v).last = s.last := rfl
@[simp] theorem State.setCore_goodStep (c : CoreRef) (v : CoreSt) : (s.setCore c v).goodStep = s.goodStep := rfl
@[simp] theorem State.setCore_intact (c : CoreRef) (v : CoreSt) : (s.setCore c v).intact = s.intact := rfl
@[simp] theorem State.setCore_sparesOut (c : CoreRef) (v : CoreSt) : (s.setCore c v).sparesOut = s.sparesOut := rfl
@[simp] theorem State.setCore_unclassified (c : CoreRef) (v : CoreSt) : (s.setCore c v).unclassified = s.unclassified := rfl
@[simp] theorem State.setCore_fabric (c : CoreRef) (v : CoreSt) : (s.setCore c v).fabric = s.fabric := rfl
@[simp] theorem State.setCore_eth (c : CoreRef) (v : CoreSt) : (s.setCore c v).eth = s.eth := rfl
@[simp] theorem State.setCore_host (c : CoreRef) (v : CoreSt) : (s.setCore c v).host = s.host := rfl
@[simp] theorem State.setCore_power (c : CoreRef) (v : CoreSt) : (s.setCore c v).power = s.power := rfl
@[simp] theorem State.setCore_clock (c : CoreRef) (v : CoreSt) : (s.setCore c v).clock = s.clock := rfl
@[simp] theorem State.setCore_mgmt (c : CoreRef) (v : CoreSt) : (s.setCore c v).mgmt = s.mgmt := rfl
@[simp] theorem State.setCore_sec (c : CoreRef) (v : CoreSt) : (s.setCore c v).sec = s.sec := rfl
@[simp] theorem State.setCore_pins (c : CoreRef) (v : CoreSt) : (s.setCore c v).pins = s.pins := rfl

@[simp] theorem State.modCore_pending (c : CoreRef) (f : CoreSt → CoreSt) : (s.modCore c f).pending = s.pending := rfl
@[simp] theorem State.modCore_free (c : CoreRef) (f : CoreSt → CoreSt) : (s.modCore c f).free = s.free := rfl
@[simp] theorem State.modCore_out (c : CoreRef) (f : CoreSt → CoreSt) : (s.modCore c f).out = s.out := rfl
@[simp] theorem State.modCore_regs (c : CoreRef) (f : CoreSt → CoreSt) : (s.modCore c f).regs = s.regs := rfl
@[simp] theorem State.modCore_active (c : CoreRef) (f : CoreSt → CoreSt) : (s.modCore c f).active = s.active := rfl
@[simp] theorem State.modCore_job (c : CoreRef) (f : CoreSt → CoreSt) : (s.modCore c f).job = s.job := rfl
@[simp] theorem State.modCore_units (c : CoreRef) (f : CoreSt → CoreSt) : (s.modCore c f).units = s.units := rfl
@[simp] theorem State.modCore_phys (c : CoreRef) (f : CoreSt → CoreSt) : (s.modCore c f).phys = s.phys := rfl
@[simp] theorem State.modCore_confirm (c : CoreRef) (f : CoreSt → CoreSt) : (s.modCore c f).confirm = s.confirm := rfl
@[simp] theorem State.modCore_due (c : CoreRef) (f : CoreSt → CoreSt) : (s.modCore c f).due = s.due := rfl
@[simp] theorem State.modCore_turns (c : CoreRef) (f : CoreSt → CoreSt) : (s.modCore c f).turns = s.turns := rfl
@[simp] theorem State.modCore_mram (c : CoreRef) (f : CoreSt → CoreSt) : (s.modCore c f).mram = s.mram := rfl
@[simp] theorem State.modCore_rom (c : CoreRef) (f : CoreSt → CoreSt) : (s.modCore c f).rom = s.rom := rfl
@[simp] theorem State.modCore_mem (c : CoreRef) (f : CoreSt → CoreSt) : (s.modCore c f).mem = s.mem := rfl
@[simp] theorem State.modCore_program (c : CoreRef) (f : CoreSt → CoreSt) : (s.modCore c f).program = s.program := rfl
@[simp] theorem State.modCore_step (c : CoreRef) (f : CoreSt → CoreSt) : (s.modCore c f).step = s.step := rfl
@[simp] theorem State.modCore_last (c : CoreRef) (f : CoreSt → CoreSt) : (s.modCore c f).last = s.last := rfl
@[simp] theorem State.modCore_goodStep (c : CoreRef) (f : CoreSt → CoreSt) : (s.modCore c f).goodStep = s.goodStep := rfl
@[simp] theorem State.modCore_intact (c : CoreRef) (f : CoreSt → CoreSt) : (s.modCore c f).intact = s.intact := rfl
@[simp] theorem State.modCore_sparesOut (c : CoreRef) (f : CoreSt → CoreSt) : (s.modCore c f).sparesOut = s.sparesOut := rfl
@[simp] theorem State.modCore_unclassified (c : CoreRef) (f : CoreSt → CoreSt) : (s.modCore c f).unclassified = s.unclassified := rfl
@[simp] theorem State.modCore_fabric (c : CoreRef) (f : CoreSt → CoreSt) : (s.modCore c f).fabric = s.fabric := rfl
@[simp] theorem State.modCore_eth (c : CoreRef) (f : CoreSt → CoreSt) : (s.modCore c f).eth = s.eth := rfl
@[simp] theorem State.modCore_host (c : CoreRef) (f : CoreSt → CoreSt) : (s.modCore c f).host = s.host := rfl
@[simp] theorem State.modCore_power (c : CoreRef) (f : CoreSt → CoreSt) : (s.modCore c f).power = s.power := rfl
@[simp] theorem State.modCore_clock (c : CoreRef) (f : CoreSt → CoreSt) : (s.modCore c f).clock = s.clock := rfl
@[simp] theorem State.modCore_mgmt (c : CoreRef) (f : CoreSt → CoreSt) : (s.modCore c f).mgmt = s.mgmt := rfl
@[simp] theorem State.modCore_sec (c : CoreRef) (f : CoreSt → CoreSt) : (s.modCore c f).sec = s.sec := rfl
@[simp] theorem State.modCore_pins (c : CoreRef) (f : CoreSt → CoreSt) : (s.modCore c f).pins = s.pins := rfl

@[simp] theorem State.setUU_pending (t : Nat) (v : UnitSt) : (s.setUU t v).pending = s.pending := rfl
@[simp] theorem State.setUU_free (t : Nat) (v : UnitSt) : (s.setUU t v).free = s.free := rfl
@[simp] theorem State.setUU_out (t : Nat) (v : UnitSt) : (s.setUU t v).out = s.out := rfl
@[simp] theorem State.setUU_regs (t : Nat) (v : UnitSt) : (s.setUU t v).regs = s.regs := rfl
@[simp] theorem State.setUU_active (t : Nat) (v : UnitSt) : (s.setUU t v).active = s.active := rfl
@[simp] theorem State.setUU_job (t : Nat) (v : UnitSt) : (s.setUU t v).job = s.job := rfl
@[simp] theorem State.setUU_cores (t : Nat) (v : UnitSt) : (s.setUU t v).cores = s.cores := rfl
@[simp] theorem State.setUU_phys (t : Nat) (v : UnitSt) : (s.setUU t v).phys = s.phys := rfl
@[simp] theorem State.setUU_confirm (t : Nat) (v : UnitSt) : (s.setUU t v).confirm = s.confirm := rfl
@[simp] theorem State.setUU_due (t : Nat) (v : UnitSt) : (s.setUU t v).due = s.due := rfl
@[simp] theorem State.setUU_turns (t : Nat) (v : UnitSt) : (s.setUU t v).turns = s.turns := rfl
@[simp] theorem State.setUU_mram (t : Nat) (v : UnitSt) : (s.setUU t v).mram = s.mram := rfl
@[simp] theorem State.setUU_rom (t : Nat) (v : UnitSt) : (s.setUU t v).rom = s.rom := rfl
@[simp] theorem State.setUU_mem (t : Nat) (v : UnitSt) : (s.setUU t v).mem = s.mem := rfl
@[simp] theorem State.setUU_program (t : Nat) (v : UnitSt) : (s.setUU t v).program = s.program := rfl
@[simp] theorem State.setUU_step (t : Nat) (v : UnitSt) : (s.setUU t v).step = s.step := rfl
@[simp] theorem State.setUU_last (t : Nat) (v : UnitSt) : (s.setUU t v).last = s.last := rfl
@[simp] theorem State.setUU_goodStep (t : Nat) (v : UnitSt) : (s.setUU t v).goodStep = s.goodStep := rfl
@[simp] theorem State.setUU_intact (t : Nat) (v : UnitSt) : (s.setUU t v).intact = s.intact := rfl
@[simp] theorem State.setUU_sparesOut (t : Nat) (v : UnitSt) : (s.setUU t v).sparesOut = s.sparesOut := rfl
@[simp] theorem State.setUU_unclassified (t : Nat) (v : UnitSt) : (s.setUU t v).unclassified = s.unclassified := rfl
@[simp] theorem State.setUU_fabric (t : Nat) (v : UnitSt) : (s.setUU t v).fabric = s.fabric := rfl
@[simp] theorem State.setUU_eth (t : Nat) (v : UnitSt) : (s.setUU t v).eth = s.eth := rfl
@[simp] theorem State.setUU_host (t : Nat) (v : UnitSt) : (s.setUU t v).host = s.host := rfl
@[simp] theorem State.setUU_power (t : Nat) (v : UnitSt) : (s.setUU t v).power = s.power := rfl
@[simp] theorem State.setUU_clock (t : Nat) (v : UnitSt) : (s.setUU t v).clock = s.clock := rfl
@[simp] theorem State.setUU_mgmt (t : Nat) (v : UnitSt) : (s.setUU t v).mgmt = s.mgmt := rfl
@[simp] theorem State.setUU_sec (t : Nat) (v : UnitSt) : (s.setUU t v).sec = s.sec := rfl
@[simp] theorem State.setUU_pins (t : Nat) (v : UnitSt) : (s.setUU t v).pins = s.pins := rfl

@[simp] theorem State.modStep_pending (f : StepRun → StepRun) : (s.modStep f).pending = s.pending := rfl
@[simp] theorem State.modStep_free (f : StepRun → StepRun) : (s.modStep f).free = s.free := rfl
@[simp] theorem State.modStep_out (f : StepRun → StepRun) : (s.modStep f).out = s.out := rfl
@[simp] theorem State.modStep_regs (f : StepRun → StepRun) : (s.modStep f).regs = s.regs := rfl
@[simp] theorem State.modStep_active (f : StepRun → StepRun) : (s.modStep f).active = s.active := rfl
@[simp] theorem State.modStep_job (f : StepRun → StepRun) : (s.modStep f).job = s.job := rfl
@[simp] theorem State.modStep_cores (f : StepRun → StepRun) : (s.modStep f).cores = s.cores := rfl
@[simp] theorem State.modStep_units (f : StepRun → StepRun) : (s.modStep f).units = s.units := rfl
@[simp] theorem State.modStep_phys (f : StepRun → StepRun) : (s.modStep f).phys = s.phys := rfl
@[simp] theorem State.modStep_confirm (f : StepRun → StepRun) : (s.modStep f).confirm = s.confirm := rfl
@[simp] theorem State.modStep_due (f : StepRun → StepRun) : (s.modStep f).due = s.due := rfl
@[simp] theorem State.modStep_turns (f : StepRun → StepRun) : (s.modStep f).turns = s.turns := rfl
@[simp] theorem State.modStep_mram (f : StepRun → StepRun) : (s.modStep f).mram = s.mram := rfl
@[simp] theorem State.modStep_rom (f : StepRun → StepRun) : (s.modStep f).rom = s.rom := rfl
@[simp] theorem State.modStep_mem (f : StepRun → StepRun) : (s.modStep f).mem = s.mem := rfl
@[simp] theorem State.modStep_program (f : StepRun → StepRun) : (s.modStep f).program = s.program := rfl
@[simp] theorem State.modStep_last (f : StepRun → StepRun) : (s.modStep f).last = s.last := rfl
@[simp] theorem State.modStep_goodStep (f : StepRun → StepRun) : (s.modStep f).goodStep = s.goodStep := rfl
@[simp] theorem State.modStep_intact (f : StepRun → StepRun) : (s.modStep f).intact = s.intact := rfl
@[simp] theorem State.modStep_sparesOut (f : StepRun → StepRun) : (s.modStep f).sparesOut = s.sparesOut := rfl
@[simp] theorem State.modStep_unclassified (f : StepRun → StepRun) : (s.modStep f).unclassified = s.unclassified := rfl
@[simp] theorem State.modStep_fabric (f : StepRun → StepRun) : (s.modStep f).fabric = s.fabric := rfl
@[simp] theorem State.modStep_eth (f : StepRun → StepRun) : (s.modStep f).eth = s.eth := rfl
@[simp] theorem State.modStep_host (f : StepRun → StepRun) : (s.modStep f).host = s.host := rfl
@[simp] theorem State.modStep_power (f : StepRun → StepRun) : (s.modStep f).power = s.power := rfl
@[simp] theorem State.modStep_clock (f : StepRun → StepRun) : (s.modStep f).clock = s.clock := rfl
@[simp] theorem State.modStep_mgmt (f : StepRun → StepRun) : (s.modStep f).mgmt = s.mgmt := rfl
@[simp] theorem State.modStep_sec (f : StepRun → StepRun) : (s.modStep f).sec = s.sec := rfl
@[simp] theorem State.modStep_pins (f : StepRun → StepRun) : (s.modStep f).pins = s.pins := rfl

@[simp] theorem State.setPh_pending (t p : Nat) (v : PhysCore) : (s.setPh t p v).pending = s.pending := rfl
@[simp] theorem State.setPh_free (t p : Nat) (v : PhysCore) : (s.setPh t p v).free = s.free := rfl
@[simp] theorem State.setPh_out (t p : Nat) (v : PhysCore) : (s.setPh t p v).out = s.out := rfl
@[simp] theorem State.setPh_regs (t p : Nat) (v : PhysCore) : (s.setPh t p v).regs = s.regs := rfl
@[simp] theorem State.setPh_active (t p : Nat) (v : PhysCore) : (s.setPh t p v).active = s.active := rfl
@[simp] theorem State.setPh_job (t p : Nat) (v : PhysCore) : (s.setPh t p v).job = s.job := rfl
@[simp] theorem State.setPh_cores (t p : Nat) (v : PhysCore) : (s.setPh t p v).cores = s.cores := rfl
@[simp] theorem State.setPh_units (t p : Nat) (v : PhysCore) : (s.setPh t p v).units = s.units := rfl
@[simp] theorem State.setPh_confirm (t p : Nat) (v : PhysCore) : (s.setPh t p v).confirm = s.confirm := rfl
@[simp] theorem State.setPh_due (t p : Nat) (v : PhysCore) : (s.setPh t p v).due = s.due := rfl
@[simp] theorem State.setPh_turns (t p : Nat) (v : PhysCore) : (s.setPh t p v).turns = s.turns := rfl
@[simp] theorem State.setPh_mram (t p : Nat) (v : PhysCore) : (s.setPh t p v).mram = s.mram := rfl
@[simp] theorem State.setPh_rom (t p : Nat) (v : PhysCore) : (s.setPh t p v).rom = s.rom := rfl
@[simp] theorem State.setPh_mem (t p : Nat) (v : PhysCore) : (s.setPh t p v).mem = s.mem := rfl
@[simp] theorem State.setPh_program (t p : Nat) (v : PhysCore) : (s.setPh t p v).program = s.program := rfl
@[simp] theorem State.setPh_step (t p : Nat) (v : PhysCore) : (s.setPh t p v).step = s.step := rfl
@[simp] theorem State.setPh_last (t p : Nat) (v : PhysCore) : (s.setPh t p v).last = s.last := rfl
@[simp] theorem State.setPh_goodStep (t p : Nat) (v : PhysCore) : (s.setPh t p v).goodStep = s.goodStep := rfl
@[simp] theorem State.setPh_intact (t p : Nat) (v : PhysCore) : (s.setPh t p v).intact = s.intact := rfl
@[simp] theorem State.setPh_sparesOut (t p : Nat) (v : PhysCore) : (s.setPh t p v).sparesOut = s.sparesOut := rfl
@[simp] theorem State.setPh_unclassified (t p : Nat) (v : PhysCore) : (s.setPh t p v).unclassified = s.unclassified := rfl
@[simp] theorem State.setPh_fabric (t p : Nat) (v : PhysCore) : (s.setPh t p v).fabric = s.fabric := rfl
@[simp] theorem State.setPh_eth (t p : Nat) (v : PhysCore) : (s.setPh t p v).eth = s.eth := rfl
@[simp] theorem State.setPh_host (t p : Nat) (v : PhysCore) : (s.setPh t p v).host = s.host := rfl
@[simp] theorem State.setPh_power (t p : Nat) (v : PhysCore) : (s.setPh t p v).power = s.power := rfl
@[simp] theorem State.setPh_clock (t p : Nat) (v : PhysCore) : (s.setPh t p v).clock = s.clock := rfl
@[simp] theorem State.setPh_mgmt (t p : Nat) (v : PhysCore) : (s.setPh t p v).mgmt = s.mgmt := rfl
@[simp] theorem State.setPh_sec (t p : Nat) (v : PhysCore) : (s.setPh t p v).sec = s.sec := rfl
@[simp] theorem State.setPh_pins (t p : Nat) (v : PhysCore) : (s.setPh t p v).pins = s.pins := rfl

@[simp] theorem State.setVec_pending (v : Nat) (x : MsixVec) : (s.setVec v x).pending = s.pending := rfl
@[simp] theorem State.setVec_free (v : Nat) (x : MsixVec) : (s.setVec v x).free = s.free := rfl
@[simp] theorem State.setVec_out (v : Nat) (x : MsixVec) : (s.setVec v x).out = s.out := rfl
@[simp] theorem State.setVec_regs (v : Nat) (x : MsixVec) : (s.setVec v x).regs = s.regs := rfl
@[simp] theorem State.setVec_active (v : Nat) (x : MsixVec) : (s.setVec v x).active = s.active := rfl
@[simp] theorem State.setVec_job (v : Nat) (x : MsixVec) : (s.setVec v x).job = s.job := rfl
@[simp] theorem State.setVec_cores (v : Nat) (x : MsixVec) : (s.setVec v x).cores = s.cores := rfl
@[simp] theorem State.setVec_units (v : Nat) (x : MsixVec) : (s.setVec v x).units = s.units := rfl
@[simp] theorem State.setVec_phys (v : Nat) (x : MsixVec) : (s.setVec v x).phys = s.phys := rfl
@[simp] theorem State.setVec_confirm (v : Nat) (x : MsixVec) : (s.setVec v x).confirm = s.confirm := rfl
@[simp] theorem State.setVec_due (v : Nat) (x : MsixVec) : (s.setVec v x).due = s.due := rfl
@[simp] theorem State.setVec_turns (v : Nat) (x : MsixVec) : (s.setVec v x).turns = s.turns := rfl
@[simp] theorem State.setVec_mram (v : Nat) (x : MsixVec) : (s.setVec v x).mram = s.mram := rfl
@[simp] theorem State.setVec_rom (v : Nat) (x : MsixVec) : (s.setVec v x).rom = s.rom := rfl
@[simp] theorem State.setVec_mem (v : Nat) (x : MsixVec) : (s.setVec v x).mem = s.mem := rfl
@[simp] theorem State.setVec_program (v : Nat) (x : MsixVec) : (s.setVec v x).program = s.program := rfl
@[simp] theorem State.setVec_step (v : Nat) (x : MsixVec) : (s.setVec v x).step = s.step := rfl
@[simp] theorem State.setVec_last (v : Nat) (x : MsixVec) : (s.setVec v x).last = s.last := rfl
@[simp] theorem State.setVec_goodStep (v : Nat) (x : MsixVec) : (s.setVec v x).goodStep = s.goodStep := rfl
@[simp] theorem State.setVec_intact (v : Nat) (x : MsixVec) : (s.setVec v x).intact = s.intact := rfl
@[simp] theorem State.setVec_sparesOut (v : Nat) (x : MsixVec) : (s.setVec v x).sparesOut = s.sparesOut := rfl
@[simp] theorem State.setVec_unclassified (v : Nat) (x : MsixVec) : (s.setVec v x).unclassified = s.unclassified := rfl
@[simp] theorem State.setVec_fabric (v : Nat) (x : MsixVec) : (s.setVec v x).fabric = s.fabric := rfl
@[simp] theorem State.setVec_eth (v : Nat) (x : MsixVec) : (s.setVec v x).eth = s.eth := rfl
@[simp] theorem State.setVec_power (v : Nat) (x : MsixVec) : (s.setVec v x).power = s.power := rfl
@[simp] theorem State.setVec_clock (v : Nat) (x : MsixVec) : (s.setVec v x).clock = s.clock := rfl
@[simp] theorem State.setVec_mgmt (v : Nat) (x : MsixVec) : (s.setVec v x).mgmt = s.mgmt := rfl
@[simp] theorem State.setVec_sec (v : Nat) (x : MsixVec) : (s.setVec v x).sec = s.sec := rfl
@[simp] theorem State.setVec_pins (v : Nat) (x : MsixVec) : (s.setVec v x).pins = s.pins := rfl

@[simp] theorem State.setCq_pending (q : Nat) (x : Cq) : (s.setCq q x).pending = s.pending := rfl
@[simp] theorem State.setCq_free (q : Nat) (x : Cq) : (s.setCq q x).free = s.free := rfl
@[simp] theorem State.setCq_out (q : Nat) (x : Cq) : (s.setCq q x).out = s.out := rfl
@[simp] theorem State.setCq_regs (q : Nat) (x : Cq) : (s.setCq q x).regs = s.regs := rfl
@[simp] theorem State.setCq_active (q : Nat) (x : Cq) : (s.setCq q x).active = s.active := rfl
@[simp] theorem State.setCq_job (q : Nat) (x : Cq) : (s.setCq q x).job = s.job := rfl
@[simp] theorem State.setCq_cores (q : Nat) (x : Cq) : (s.setCq q x).cores = s.cores := rfl
@[simp] theorem State.setCq_units (q : Nat) (x : Cq) : (s.setCq q x).units = s.units := rfl
@[simp] theorem State.setCq_phys (q : Nat) (x : Cq) : (s.setCq q x).phys = s.phys := rfl
@[simp] theorem State.setCq_confirm (q : Nat) (x : Cq) : (s.setCq q x).confirm = s.confirm := rfl
@[simp] theorem State.setCq_due (q : Nat) (x : Cq) : (s.setCq q x).due = s.due := rfl
@[simp] theorem State.setCq_turns (q : Nat) (x : Cq) : (s.setCq q x).turns = s.turns := rfl
@[simp] theorem State.setCq_mram (q : Nat) (x : Cq) : (s.setCq q x).mram = s.mram := rfl
@[simp] theorem State.setCq_rom (q : Nat) (x : Cq) : (s.setCq q x).rom = s.rom := rfl
@[simp] theorem State.setCq_mem (q : Nat) (x : Cq) : (s.setCq q x).mem = s.mem := rfl
@[simp] theorem State.setCq_program (q : Nat) (x : Cq) : (s.setCq q x).program = s.program := rfl
@[simp] theorem State.setCq_step (q : Nat) (x : Cq) : (s.setCq q x).step = s.step := rfl
@[simp] theorem State.setCq_last (q : Nat) (x : Cq) : (s.setCq q x).last = s.last := rfl
@[simp] theorem State.setCq_goodStep (q : Nat) (x : Cq) : (s.setCq q x).goodStep = s.goodStep := rfl
@[simp] theorem State.setCq_intact (q : Nat) (x : Cq) : (s.setCq q x).intact = s.intact := rfl
@[simp] theorem State.setCq_sparesOut (q : Nat) (x : Cq) : (s.setCq q x).sparesOut = s.sparesOut := rfl
@[simp] theorem State.setCq_unclassified (q : Nat) (x : Cq) : (s.setCq q x).unclassified = s.unclassified := rfl
@[simp] theorem State.setCq_fabric (q : Nat) (x : Cq) : (s.setCq q x).fabric = s.fabric := rfl
@[simp] theorem State.setCq_eth (q : Nat) (x : Cq) : (s.setCq q x).eth = s.eth := rfl
@[simp] theorem State.setCq_power (q : Nat) (x : Cq) : (s.setCq q x).power = s.power := rfl
@[simp] theorem State.setCq_clock (q : Nat) (x : Cq) : (s.setCq q x).clock = s.clock := rfl
@[simp] theorem State.setCq_mgmt (q : Nat) (x : Cq) : (s.setCq q x).mgmt = s.mgmt := rfl
@[simp] theorem State.setCq_sec (q : Nat) (x : Cq) : (s.setCq q x).sec = s.sec := rfl
@[simp] theorem State.setCq_pins (q : Nat) (x : Cq) : (s.setCq q x).pins = s.pins := rfl

@[simp] theorem State.setSq_pending (r : Nat) (x : Sq) : (s.setSq r x).pending = s.pending := rfl
@[simp] theorem State.setSq_free (r : Nat) (x : Sq) : (s.setSq r x).free = s.free := rfl
@[simp] theorem State.setSq_out (r : Nat) (x : Sq) : (s.setSq r x).out = s.out := rfl
@[simp] theorem State.setSq_regs (r : Nat) (x : Sq) : (s.setSq r x).regs = s.regs := rfl
@[simp] theorem State.setSq_active (r : Nat) (x : Sq) : (s.setSq r x).active = s.active := rfl
@[simp] theorem State.setSq_job (r : Nat) (x : Sq) : (s.setSq r x).job = s.job := rfl
@[simp] theorem State.setSq_cores (r : Nat) (x : Sq) : (s.setSq r x).cores = s.cores := rfl
@[simp] theorem State.setSq_units (r : Nat) (x : Sq) : (s.setSq r x).units = s.units := rfl
@[simp] theorem State.setSq_phys (r : Nat) (x : Sq) : (s.setSq r x).phys = s.phys := rfl
@[simp] theorem State.setSq_confirm (r : Nat) (x : Sq) : (s.setSq r x).confirm = s.confirm := rfl
@[simp] theorem State.setSq_due (r : Nat) (x : Sq) : (s.setSq r x).due = s.due := rfl
@[simp] theorem State.setSq_turns (r : Nat) (x : Sq) : (s.setSq r x).turns = s.turns := rfl
@[simp] theorem State.setSq_mram (r : Nat) (x : Sq) : (s.setSq r x).mram = s.mram := rfl
@[simp] theorem State.setSq_rom (r : Nat) (x : Sq) : (s.setSq r x).rom = s.rom := rfl
@[simp] theorem State.setSq_mem (r : Nat) (x : Sq) : (s.setSq r x).mem = s.mem := rfl
@[simp] theorem State.setSq_program (r : Nat) (x : Sq) : (s.setSq r x).program = s.program := rfl
@[simp] theorem State.setSq_step (r : Nat) (x : Sq) : (s.setSq r x).step = s.step := rfl
@[simp] theorem State.setSq_last (r : Nat) (x : Sq) : (s.setSq r x).last = s.last := rfl
@[simp] theorem State.setSq_goodStep (r : Nat) (x : Sq) : (s.setSq r x).goodStep = s.goodStep := rfl
@[simp] theorem State.setSq_intact (r : Nat) (x : Sq) : (s.setSq r x).intact = s.intact := rfl
@[simp] theorem State.setSq_sparesOut (r : Nat) (x : Sq) : (s.setSq r x).sparesOut = s.sparesOut := rfl
@[simp] theorem State.setSq_unclassified (r : Nat) (x : Sq) : (s.setSq r x).unclassified = s.unclassified := rfl
@[simp] theorem State.setSq_fabric (r : Nat) (x : Sq) : (s.setSq r x).fabric = s.fabric := rfl
@[simp] theorem State.setSq_eth (r : Nat) (x : Sq) : (s.setSq r x).eth = s.eth := rfl
@[simp] theorem State.setSq_power (r : Nat) (x : Sq) : (s.setSq r x).power = s.power := rfl
@[simp] theorem State.setSq_clock (r : Nat) (x : Sq) : (s.setSq r x).clock = s.clock := rfl
@[simp] theorem State.setSq_mgmt (r : Nat) (x : Sq) : (s.setSq r x).mgmt = s.mgmt := rfl
@[simp] theorem State.setSq_sec (r : Nat) (x : Sq) : (s.setSq r x).sec = s.sec := rfl
@[simp] theorem State.setSq_pins (r : Nat) (x : Sq) : (s.setSq r x).pins = s.pins := rfl

@[simp] theorem State.setEntry_pending (n : Nat) (e : MapEntry) : (s.setEntry n e).pending = s.pending := rfl
@[simp] theorem State.setEntry_free (n : Nat) (e : MapEntry) : (s.setEntry n e).free = s.free := rfl
@[simp] theorem State.setEntry_out (n : Nat) (e : MapEntry) : (s.setEntry n e).out = s.out := rfl
@[simp] theorem State.setEntry_regs (n : Nat) (e : MapEntry) : (s.setEntry n e).regs = s.regs := rfl
@[simp] theorem State.setEntry_active (n : Nat) (e : MapEntry) : (s.setEntry n e).active = s.active := rfl
@[simp] theorem State.setEntry_job (n : Nat) (e : MapEntry) : (s.setEntry n e).job = s.job := rfl
@[simp] theorem State.setEntry_cores (n : Nat) (e : MapEntry) : (s.setEntry n e).cores = s.cores := rfl
@[simp] theorem State.setEntry_units (n : Nat) (e : MapEntry) : (s.setEntry n e).units = s.units := rfl
@[simp] theorem State.setEntry_phys (n : Nat) (e : MapEntry) : (s.setEntry n e).phys = s.phys := rfl
@[simp] theorem State.setEntry_confirm (n : Nat) (e : MapEntry) : (s.setEntry n e).confirm = s.confirm := rfl
@[simp] theorem State.setEntry_due (n : Nat) (e : MapEntry) : (s.setEntry n e).due = s.due := rfl
@[simp] theorem State.setEntry_turns (n : Nat) (e : MapEntry) : (s.setEntry n e).turns = s.turns := rfl
@[simp] theorem State.setEntry_mram (n : Nat) (e : MapEntry) : (s.setEntry n e).mram = s.mram := rfl
@[simp] theorem State.setEntry_rom (n : Nat) (e : MapEntry) : (s.setEntry n e).rom = s.rom := rfl
@[simp] theorem State.setEntry_program (n : Nat) (e : MapEntry) : (s.setEntry n e).program = s.program := rfl
@[simp] theorem State.setEntry_step (n : Nat) (e : MapEntry) : (s.setEntry n e).step = s.step := rfl
@[simp] theorem State.setEntry_last (n : Nat) (e : MapEntry) : (s.setEntry n e).last = s.last := rfl
@[simp] theorem State.setEntry_goodStep (n : Nat) (e : MapEntry) : (s.setEntry n e).goodStep = s.goodStep := rfl
@[simp] theorem State.setEntry_intact (n : Nat) (e : MapEntry) : (s.setEntry n e).intact = s.intact := rfl
@[simp] theorem State.setEntry_sparesOut (n : Nat) (e : MapEntry) : (s.setEntry n e).sparesOut = s.sparesOut := rfl
@[simp] theorem State.setEntry_unclassified (n : Nat) (e : MapEntry) : (s.setEntry n e).unclassified = s.unclassified := rfl
@[simp] theorem State.setEntry_fabric (n : Nat) (e : MapEntry) : (s.setEntry n e).fabric = s.fabric := rfl
@[simp] theorem State.setEntry_eth (n : Nat) (e : MapEntry) : (s.setEntry n e).eth = s.eth := rfl
@[simp] theorem State.setEntry_host (n : Nat) (e : MapEntry) : (s.setEntry n e).host = s.host := rfl
@[simp] theorem State.setEntry_power (n : Nat) (e : MapEntry) : (s.setEntry n e).power = s.power := rfl
@[simp] theorem State.setEntry_clock (n : Nat) (e : MapEntry) : (s.setEntry n e).clock = s.clock := rfl
@[simp] theorem State.setEntry_mgmt (n : Nat) (e : MapEntry) : (s.setEntry n e).mgmt = s.mgmt := rfl
@[simp] theorem State.setEntry_sec (n : Nat) (e : MapEntry) : (s.setEntry n e).sec = s.sec := rfl
@[simp] theorem State.setEntry_pins (n : Nat) (e : MapEntry) : (s.setEntry n e).pins = s.pins := rfl

@[simp] theorem State.setReplica_pending (t n : Nat) (e : MapEntry) : (s.setReplica t n e).pending = s.pending := rfl
@[simp] theorem State.setReplica_free (t n : Nat) (e : MapEntry) : (s.setReplica t n e).free = s.free := rfl
@[simp] theorem State.setReplica_out (t n : Nat) (e : MapEntry) : (s.setReplica t n e).out = s.out := rfl
@[simp] theorem State.setReplica_regs (t n : Nat) (e : MapEntry) : (s.setReplica t n e).regs = s.regs := rfl
@[simp] theorem State.setReplica_active (t n : Nat) (e : MapEntry) : (s.setReplica t n e).active = s.active := rfl
@[simp] theorem State.setReplica_job (t n : Nat) (e : MapEntry) : (s.setReplica t n e).job = s.job := rfl
@[simp] theorem State.setReplica_cores (t n : Nat) (e : MapEntry) : (s.setReplica t n e).cores = s.cores := rfl
@[simp] theorem State.setReplica_units (t n : Nat) (e : MapEntry) : (s.setReplica t n e).units = s.units := rfl
@[simp] theorem State.setReplica_phys (t n : Nat) (e : MapEntry) : (s.setReplica t n e).phys = s.phys := rfl
@[simp] theorem State.setReplica_confirm (t n : Nat) (e : MapEntry) : (s.setReplica t n e).confirm = s.confirm := rfl
@[simp] theorem State.setReplica_due (t n : Nat) (e : MapEntry) : (s.setReplica t n e).due = s.due := rfl
@[simp] theorem State.setReplica_turns (t n : Nat) (e : MapEntry) : (s.setReplica t n e).turns = s.turns := rfl
@[simp] theorem State.setReplica_mram (t n : Nat) (e : MapEntry) : (s.setReplica t n e).mram = s.mram := rfl
@[simp] theorem State.setReplica_rom (t n : Nat) (e : MapEntry) : (s.setReplica t n e).rom = s.rom := rfl
@[simp] theorem State.setReplica_program (t n : Nat) (e : MapEntry) : (s.setReplica t n e).program = s.program := rfl
@[simp] theorem State.setReplica_step (t n : Nat) (e : MapEntry) : (s.setReplica t n e).step = s.step := rfl
@[simp] theorem State.setReplica_last (t n : Nat) (e : MapEntry) : (s.setReplica t n e).last = s.last := rfl
@[simp] theorem State.setReplica_goodStep (t n : Nat) (e : MapEntry) : (s.setReplica t n e).goodStep = s.goodStep := rfl
@[simp] theorem State.setReplica_intact (t n : Nat) (e : MapEntry) : (s.setReplica t n e).intact = s.intact := rfl
@[simp] theorem State.setReplica_sparesOut (t n : Nat) (e : MapEntry) : (s.setReplica t n e).sparesOut = s.sparesOut := rfl
@[simp] theorem State.setReplica_unclassified (t n : Nat) (e : MapEntry) : (s.setReplica t n e).unclassified = s.unclassified := rfl
@[simp] theorem State.setReplica_fabric (t n : Nat) (e : MapEntry) : (s.setReplica t n e).fabric = s.fabric := rfl
@[simp] theorem State.setReplica_eth (t n : Nat) (e : MapEntry) : (s.setReplica t n e).eth = s.eth := rfl
@[simp] theorem State.setReplica_host (t n : Nat) (e : MapEntry) : (s.setReplica t n e).host = s.host := rfl
@[simp] theorem State.setReplica_power (t n : Nat) (e : MapEntry) : (s.setReplica t n e).power = s.power := rfl
@[simp] theorem State.setReplica_clock (t n : Nat) (e : MapEntry) : (s.setReplica t n e).clock = s.clock := rfl
@[simp] theorem State.setReplica_mgmt (t n : Nat) (e : MapEntry) : (s.setReplica t n e).mgmt = s.mgmt := rfl
@[simp] theorem State.setReplica_sec (t n : Nat) (e : MapEntry) : (s.setReplica t n e).sec = s.sec := rfl
@[simp] theorem State.setReplica_pins (t n : Nat) (e : MapEntry) : (s.setReplica t n e).pins = s.pins := rfl

@[simp] theorem State.setAllEntry_pending (n : Nat) (e : MapEntry) : (s.setAllEntry n e).pending = s.pending := by simp only [State.setAllEntry, State.setReplica_pending, State.setEntry_pending]
@[simp] theorem State.setAllEntry_free (n : Nat) (e : MapEntry) : (s.setAllEntry n e).free = s.free := by simp only [State.setAllEntry, State.setReplica_free, State.setEntry_free]
@[simp] theorem State.setAllEntry_out (n : Nat) (e : MapEntry) : (s.setAllEntry n e).out = s.out := by simp only [State.setAllEntry, State.setReplica_out, State.setEntry_out]
@[simp] theorem State.setAllEntry_regs (n : Nat) (e : MapEntry) : (s.setAllEntry n e).regs = s.regs := by simp only [State.setAllEntry, State.setReplica_regs, State.setEntry_regs]
@[simp] theorem State.setAllEntry_active (n : Nat) (e : MapEntry) : (s.setAllEntry n e).active = s.active := by simp only [State.setAllEntry, State.setReplica_active, State.setEntry_active]
@[simp] theorem State.setAllEntry_job (n : Nat) (e : MapEntry) : (s.setAllEntry n e).job = s.job := by simp only [State.setAllEntry, State.setReplica_job, State.setEntry_job]
@[simp] theorem State.setAllEntry_cores (n : Nat) (e : MapEntry) : (s.setAllEntry n e).cores = s.cores := by simp only [State.setAllEntry, State.setReplica_cores, State.setEntry_cores]
@[simp] theorem State.setAllEntry_units (n : Nat) (e : MapEntry) : (s.setAllEntry n e).units = s.units := by simp only [State.setAllEntry, State.setReplica_units, State.setEntry_units]
@[simp] theorem State.setAllEntry_phys (n : Nat) (e : MapEntry) : (s.setAllEntry n e).phys = s.phys := by simp only [State.setAllEntry, State.setReplica_phys, State.setEntry_phys]
@[simp] theorem State.setAllEntry_confirm (n : Nat) (e : MapEntry) : (s.setAllEntry n e).confirm = s.confirm := by simp only [State.setAllEntry, State.setReplica_confirm, State.setEntry_confirm]
@[simp] theorem State.setAllEntry_due (n : Nat) (e : MapEntry) : (s.setAllEntry n e).due = s.due := by simp only [State.setAllEntry, State.setReplica_due, State.setEntry_due]
@[simp] theorem State.setAllEntry_turns (n : Nat) (e : MapEntry) : (s.setAllEntry n e).turns = s.turns := by simp only [State.setAllEntry, State.setReplica_turns, State.setEntry_turns]
@[simp] theorem State.setAllEntry_mram (n : Nat) (e : MapEntry) : (s.setAllEntry n e).mram = s.mram := by simp only [State.setAllEntry, State.setReplica_mram, State.setEntry_mram]
@[simp] theorem State.setAllEntry_rom (n : Nat) (e : MapEntry) : (s.setAllEntry n e).rom = s.rom := by simp only [State.setAllEntry, State.setReplica_rom, State.setEntry_rom]
@[simp] theorem State.setAllEntry_program (n : Nat) (e : MapEntry) : (s.setAllEntry n e).program = s.program := by simp only [State.setAllEntry, State.setReplica_program, State.setEntry_program]
@[simp] theorem State.setAllEntry_step (n : Nat) (e : MapEntry) : (s.setAllEntry n e).step = s.step := by simp only [State.setAllEntry, State.setReplica_step, State.setEntry_step]
@[simp] theorem State.setAllEntry_last (n : Nat) (e : MapEntry) : (s.setAllEntry n e).last = s.last := by simp only [State.setAllEntry, State.setReplica_last, State.setEntry_last]
@[simp] theorem State.setAllEntry_goodStep (n : Nat) (e : MapEntry) : (s.setAllEntry n e).goodStep = s.goodStep := by simp only [State.setAllEntry, State.setReplica_goodStep, State.setEntry_goodStep]
@[simp] theorem State.setAllEntry_intact (n : Nat) (e : MapEntry) : (s.setAllEntry n e).intact = s.intact := by simp only [State.setAllEntry, State.setReplica_intact, State.setEntry_intact]
@[simp] theorem State.setAllEntry_sparesOut (n : Nat) (e : MapEntry) : (s.setAllEntry n e).sparesOut = s.sparesOut := by simp only [State.setAllEntry, State.setReplica_sparesOut, State.setEntry_sparesOut]
@[simp] theorem State.setAllEntry_unclassified (n : Nat) (e : MapEntry) : (s.setAllEntry n e).unclassified = s.unclassified := by simp only [State.setAllEntry, State.setReplica_unclassified, State.setEntry_unclassified]
@[simp] theorem State.setAllEntry_fabric (n : Nat) (e : MapEntry) : (s.setAllEntry n e).fabric = s.fabric := by simp only [State.setAllEntry, State.setReplica_fabric, State.setEntry_fabric]
@[simp] theorem State.setAllEntry_eth (n : Nat) (e : MapEntry) : (s.setAllEntry n e).eth = s.eth := by simp only [State.setAllEntry, State.setReplica_eth, State.setEntry_eth]
@[simp] theorem State.setAllEntry_host (n : Nat) (e : MapEntry) : (s.setAllEntry n e).host = s.host := by simp only [State.setAllEntry, State.setReplica_host, State.setEntry_host]
@[simp] theorem State.setAllEntry_power (n : Nat) (e : MapEntry) : (s.setAllEntry n e).power = s.power := by simp only [State.setAllEntry, State.setReplica_power, State.setEntry_power]
@[simp] theorem State.setAllEntry_clock (n : Nat) (e : MapEntry) : (s.setAllEntry n e).clock = s.clock := by simp only [State.setAllEntry, State.setReplica_clock, State.setEntry_clock]
@[simp] theorem State.setAllEntry_mgmt (n : Nat) (e : MapEntry) : (s.setAllEntry n e).mgmt = s.mgmt := by simp only [State.setAllEntry, State.setReplica_mgmt, State.setEntry_mgmt]
@[simp] theorem State.setAllEntry_sec (n : Nat) (e : MapEntry) : (s.setAllEntry n e).sec = s.sec := by simp only [State.setAllEntry, State.setReplica_sec, State.setEntry_sec]
@[simp] theorem State.setAllEntry_pins (n : Nat) (e : MapEntry) : (s.setAllEntry n e).pins = s.pins := by simp only [State.setAllEntry, State.setReplica_pins, State.setEntry_pins]

@[simp] theorem State.setChan_pending (q : Nat) (c : Channel) : (s.setChan q c).pending = s.pending := rfl
@[simp] theorem State.setChan_free (q : Nat) (c : Channel) : (s.setChan q c).free = s.free := rfl
@[simp] theorem State.setChan_out (q : Nat) (c : Channel) : (s.setChan q c).out = s.out := rfl
@[simp] theorem State.setChan_regs (q : Nat) (c : Channel) : (s.setChan q c).regs = s.regs := rfl
@[simp] theorem State.setChan_active (q : Nat) (c : Channel) : (s.setChan q c).active = s.active := rfl
@[simp] theorem State.setChan_job (q : Nat) (c : Channel) : (s.setChan q c).job = s.job := rfl
@[simp] theorem State.setChan_cores (q : Nat) (c : Channel) : (s.setChan q c).cores = s.cores := rfl
@[simp] theorem State.setChan_units (q : Nat) (c : Channel) : (s.setChan q c).units = s.units := rfl
@[simp] theorem State.setChan_phys (q : Nat) (c : Channel) : (s.setChan q c).phys = s.phys := rfl
@[simp] theorem State.setChan_confirm (q : Nat) (c : Channel) : (s.setChan q c).confirm = s.confirm := rfl
@[simp] theorem State.setChan_due (q : Nat) (c : Channel) : (s.setChan q c).due = s.due := rfl
@[simp] theorem State.setChan_turns (q : Nat) (c : Channel) : (s.setChan q c).turns = s.turns := rfl
@[simp] theorem State.setChan_mram (q : Nat) (c : Channel) : (s.setChan q c).mram = s.mram := rfl
@[simp] theorem State.setChan_rom (q : Nat) (c : Channel) : (s.setChan q c).rom = s.rom := rfl
@[simp] theorem State.setChan_program (q : Nat) (c : Channel) : (s.setChan q c).program = s.program := rfl
@[simp] theorem State.setChan_step (q : Nat) (c : Channel) : (s.setChan q c).step = s.step := rfl
@[simp] theorem State.setChan_last (q : Nat) (c : Channel) : (s.setChan q c).last = s.last := rfl
@[simp] theorem State.setChan_goodStep (q : Nat) (c : Channel) : (s.setChan q c).goodStep = s.goodStep := rfl
@[simp] theorem State.setChan_intact (q : Nat) (c : Channel) : (s.setChan q c).intact = s.intact := rfl
@[simp] theorem State.setChan_sparesOut (q : Nat) (c : Channel) : (s.setChan q c).sparesOut = s.sparesOut := rfl
@[simp] theorem State.setChan_unclassified (q : Nat) (c : Channel) : (s.setChan q c).unclassified = s.unclassified := rfl
@[simp] theorem State.setChan_fabric (q : Nat) (c : Channel) : (s.setChan q c).fabric = s.fabric := rfl
@[simp] theorem State.setChan_eth (q : Nat) (c : Channel) : (s.setChan q c).eth = s.eth := rfl
@[simp] theorem State.setChan_host (q : Nat) (c : Channel) : (s.setChan q c).host = s.host := rfl
@[simp] theorem State.setChan_power (q : Nat) (c : Channel) : (s.setChan q c).power = s.power := rfl
@[simp] theorem State.setChan_clock (q : Nat) (c : Channel) : (s.setChan q c).clock = s.clock := rfl
@[simp] theorem State.setChan_mgmt (q : Nat) (c : Channel) : (s.setChan q c).mgmt = s.mgmt := rfl
@[simp] theorem State.setChan_sec (q : Nat) (c : Channel) : (s.setChan q c).sec = s.sec := rfl
@[simp] theorem State.setChan_pins (q : Nat) (c : Channel) : (s.setChan q c).pins = s.pins := rfl

@[simp] theorem State.storeCode_pending (k : Nat) (c : Codeword) : (s.storeCode k c).pending = s.pending := rfl
@[simp] theorem State.storeCode_free (k : Nat) (c : Codeword) : (s.storeCode k c).free = s.free := rfl
@[simp] theorem State.storeCode_out (k : Nat) (c : Codeword) : (s.storeCode k c).out = s.out := rfl
@[simp] theorem State.storeCode_regs (k : Nat) (c : Codeword) : (s.storeCode k c).regs = s.regs := rfl
@[simp] theorem State.storeCode_active (k : Nat) (c : Codeword) : (s.storeCode k c).active = s.active := rfl
@[simp] theorem State.storeCode_job (k : Nat) (c : Codeword) : (s.storeCode k c).job = s.job := rfl
@[simp] theorem State.storeCode_cores (k : Nat) (c : Codeword) : (s.storeCode k c).cores = s.cores := rfl
@[simp] theorem State.storeCode_units (k : Nat) (c : Codeword) : (s.storeCode k c).units = s.units := rfl
@[simp] theorem State.storeCode_phys (k : Nat) (c : Codeword) : (s.storeCode k c).phys = s.phys := rfl
@[simp] theorem State.storeCode_confirm (k : Nat) (c : Codeword) : (s.storeCode k c).confirm = s.confirm := rfl
@[simp] theorem State.storeCode_due (k : Nat) (c : Codeword) : (s.storeCode k c).due = s.due := rfl
@[simp] theorem State.storeCode_turns (k : Nat) (c : Codeword) : (s.storeCode k c).turns = s.turns := rfl
@[simp] theorem State.storeCode_mram (k : Nat) (c : Codeword) : (s.storeCode k c).mram = s.mram := rfl
@[simp] theorem State.storeCode_rom (k : Nat) (c : Codeword) : (s.storeCode k c).rom = s.rom := rfl
@[simp] theorem State.storeCode_program (k : Nat) (c : Codeword) : (s.storeCode k c).program = s.program := rfl
@[simp] theorem State.storeCode_step (k : Nat) (c : Codeword) : (s.storeCode k c).step = s.step := rfl
@[simp] theorem State.storeCode_last (k : Nat) (c : Codeword) : (s.storeCode k c).last = s.last := rfl
@[simp] theorem State.storeCode_goodStep (k : Nat) (c : Codeword) : (s.storeCode k c).goodStep = s.goodStep := rfl
@[simp] theorem State.storeCode_intact (k : Nat) (c : Codeword) : (s.storeCode k c).intact = s.intact := rfl
@[simp] theorem State.storeCode_sparesOut (k : Nat) (c : Codeword) : (s.storeCode k c).sparesOut = s.sparesOut := rfl
@[simp] theorem State.storeCode_unclassified (k : Nat) (c : Codeword) : (s.storeCode k c).unclassified = s.unclassified := rfl
@[simp] theorem State.storeCode_fabric (k : Nat) (c : Codeword) : (s.storeCode k c).fabric = s.fabric := rfl
@[simp] theorem State.storeCode_eth (k : Nat) (c : Codeword) : (s.storeCode k c).eth = s.eth := rfl
@[simp] theorem State.storeCode_host (k : Nat) (c : Codeword) : (s.storeCode k c).host = s.host := rfl
@[simp] theorem State.storeCode_power (k : Nat) (c : Codeword) : (s.storeCode k c).power = s.power := rfl
@[simp] theorem State.storeCode_clock (k : Nat) (c : Codeword) : (s.storeCode k c).clock = s.clock := rfl
@[simp] theorem State.storeCode_mgmt (k : Nat) (c : Codeword) : (s.storeCode k c).mgmt = s.mgmt := rfl
@[simp] theorem State.storeCode_sec (k : Nat) (c : Codeword) : (s.storeCode k c).sec = s.sec := rfl
@[simp] theorem State.storeCode_pins (k : Nat) (c : Codeword) : (s.storeCode k c).pins = s.pins := rfl

@[simp] theorem State.setPort_pending (p : Nat) (x : Port) : (s.setPort p x).pending = s.pending := rfl
@[simp] theorem State.setPort_free (p : Nat) (x : Port) : (s.setPort p x).free = s.free := rfl
@[simp] theorem State.setPort_out (p : Nat) (x : Port) : (s.setPort p x).out = s.out := rfl
@[simp] theorem State.setPort_regs (p : Nat) (x : Port) : (s.setPort p x).regs = s.regs := rfl
@[simp] theorem State.setPort_active (p : Nat) (x : Port) : (s.setPort p x).active = s.active := rfl
@[simp] theorem State.setPort_job (p : Nat) (x : Port) : (s.setPort p x).job = s.job := rfl
@[simp] theorem State.setPort_cores (p : Nat) (x : Port) : (s.setPort p x).cores = s.cores := rfl
@[simp] theorem State.setPort_units (p : Nat) (x : Port) : (s.setPort p x).units = s.units := rfl
@[simp] theorem State.setPort_phys (p : Nat) (x : Port) : (s.setPort p x).phys = s.phys := rfl
@[simp] theorem State.setPort_confirm (p : Nat) (x : Port) : (s.setPort p x).confirm = s.confirm := rfl
@[simp] theorem State.setPort_due (p : Nat) (x : Port) : (s.setPort p x).due = s.due := rfl
@[simp] theorem State.setPort_turns (p : Nat) (x : Port) : (s.setPort p x).turns = s.turns := rfl
@[simp] theorem State.setPort_mram (p : Nat) (x : Port) : (s.setPort p x).mram = s.mram := rfl
@[simp] theorem State.setPort_rom (p : Nat) (x : Port) : (s.setPort p x).rom = s.rom := rfl
@[simp] theorem State.setPort_mem (p : Nat) (x : Port) : (s.setPort p x).mem = s.mem := rfl
@[simp] theorem State.setPort_program (p : Nat) (x : Port) : (s.setPort p x).program = s.program := rfl
@[simp] theorem State.setPort_step (p : Nat) (x : Port) : (s.setPort p x).step = s.step := rfl
@[simp] theorem State.setPort_last (p : Nat) (x : Port) : (s.setPort p x).last = s.last := rfl
@[simp] theorem State.setPort_goodStep (p : Nat) (x : Port) : (s.setPort p x).goodStep = s.goodStep := rfl
@[simp] theorem State.setPort_intact (p : Nat) (x : Port) : (s.setPort p x).intact = s.intact := rfl
@[simp] theorem State.setPort_sparesOut (p : Nat) (x : Port) : (s.setPort p x).sparesOut = s.sparesOut := rfl
@[simp] theorem State.setPort_unclassified (p : Nat) (x : Port) : (s.setPort p x).unclassified = s.unclassified := rfl
@[simp] theorem State.setPort_eth (p : Nat) (x : Port) : (s.setPort p x).eth = s.eth := rfl
@[simp] theorem State.setPort_host (p : Nat) (x : Port) : (s.setPort p x).host = s.host := rfl
@[simp] theorem State.setPort_power (p : Nat) (x : Port) : (s.setPort p x).power = s.power := rfl
@[simp] theorem State.setPort_clock (p : Nat) (x : Port) : (s.setPort p x).clock = s.clock := rfl
@[simp] theorem State.setPort_mgmt (p : Nat) (x : Port) : (s.setPort p x).mgmt = s.mgmt := rfl
@[simp] theorem State.setPort_sec (p : Nat) (x : Port) : (s.setPort p x).sec = s.sec := rfl
@[simp] theorem State.setPort_pins (p : Nat) (x : Port) : (s.setPort p x).pins = s.pins := rfl

end Sys2Proof.Machine
end

