-- ==== Sys2Proof/Laws/Raise.lean ====
section
/-! SUPPORT. What posting a completion entry and raising a fault record leave as they were. -/

namespace Sys2Proof.Machine

/-! ### Posting entries and messages -/

/-- Two states agree on everything but the register file, the outputs and the host interface: all that posting an entry or a message can change. -/
structure Posted (s t : State) : Prop where
  pending : t.pending = s.pending
  free : t.free = s.free
  active : t.active = s.active
  job : t.job = s.job
  cores : t.cores = s.cores
  units : t.units = s.units
  phys : t.phys = s.phys
  confirm : t.confirm = s.confirm
  due : t.due = s.due
  turns : t.turns = s.turns
  mram : t.mram = s.mram
  rom : t.rom = s.rom
  mem : t.mem = s.mem
  program : t.program = s.program
  step : t.step = s.step
  last : t.last = s.last
  goodStep : t.goodStep = s.goodStep
  intact : t.intact = s.intact
  sparesOut : t.sparesOut = s.sparesOut
  unclassified : t.unclassified = s.unclassified
  fabric : t.fabric = s.fabric
  eth : t.eth = s.eth
  power : t.power = s.power
  clock : t.clock = s.clock
  mgmt : t.mgmt = s.mgmt
  sec : t.sec = s.sec
  pins : t.pins = s.pins

theorem Posted.refl (s : State) : Posted s s := by constructor <;> rfl

theorem Posted.trans {s t u : State} (h : Posted s t) (k : Posted t u) : Posted s u :=
  ⟨k.pending.trans h.pending, k.free.trans h.free, k.active.trans h.active, k.job.trans h.job, k.cores.trans h.cores, k.units.trans h.units, k.phys.trans h.phys, k.confirm.trans h.confirm, k.due.trans h.due, k.turns.trans h.turns, k.mram.trans h.mram, k.rom.trans h.rom, k.mem.trans h.mem, k.program.trans h.program, k.step.trans h.step, k.last.trans h.last, k.goodStep.trans h.goodStep, k.intact.trans h.intact, k.sparesOut.trans h.sparesOut, k.unclassified.trans h.unclassified, k.fabric.trans h.fabric, k.eth.trans h.eth, k.power.trans h.power, k.clock.trans h.clock, k.mgmt.trans h.mgmt, k.sec.trans h.sec, k.pins.trans h.pins⟩

theorem posted_setReg (o : Nat) (v : Dword) (s : State) : Posted s (s.setReg o v) := by constructor <;> rfl
theorem posted_count (b n k : Nat) (s : State) : Posted s (s.count b n k) := by constructor <;> rfl
theorem posted_emit (x : Out) (s : State) : Posted s (s.emit x) := by constructor <;> rfl
theorem posted_setVec (v : Nat) (x : MsixVec) (s : State) : Posted s (s.setVec v x) := by constructor <;> rfl
theorem posted_setCq (q : Nat) (x : Cq) (s : State) : Posted s (s.setCq q x) := by constructor <;> rfl
theorem posted_setSq (r : Nat) (x : Sq) (s : State) : Posted s (s.setSq r x) := by constructor <;> rfl

/-- Sending a vector's message (R491). -/
theorem posted_msixSend (v : Nat) (s : State) : Posted s (msixSend v s) := by
  unfold msixSend
  dsimp only
  split
  · exact posted_setVec _ _ _
  · exact posted_emit _ _

theorem posted_coalesce (q : Nat) (irq : Bool) (s : State) : Posted s (coalesce q irq s) := by
  unfold coalesce
  dsimp only
  split
  · exact (posted_setCq _ _ _).trans (posted_msixSend _ _)
  · exact posted_setCq _ _ _

theorem posted_cqEmit (q : Nat) (e : Entry) (s : State) : Posted s (cqEmit q e s) :=
  ((posted_emit _ _).trans (posted_setCq _ _ _)).trans (posted_coalesce _ _ _)

/-- Posting a completion entry (R485 to R487). -/
theorem posted_cqPost (q : Nat) (e : Entry) (s : State) : Posted s (cqPost q e s) := by
  unfold cqPost
  dsimp only
  split
  · exact posted_count _ _ _ _
  · split
    · exact (posted_setCq _ _ _).trans (posted_count _ _ _ _)
    · split
      · exact posted_setCq _ _ _
      · exact posted_cqEmit _ _ _

/-- Posting an event entry (R490). -/
theorem posted_eventPost (q : Nat) (e : Entry) (s : State) : Posted s (eventPost q e s) := by
  unfold eventPost
  dsimp only
  split
  · exact posted_count _ _ _ _
  · split
    · exact posted_count _ _ _ _
    · split
      · exact posted_setCq _ _ _
      · split
        · exact posted_count _ _ _ _
        · exact posted_cqEmit _ _ _

/-- Writing held entries (R486). -/
theorem posted_cqFlush (q k : Nat) (s : State) : Posted s (cqFlush q k s) := by
  induction k generalizing s with
  | zero => exact Posted.refl s
  | succ k ih =>
    unfold cqFlush
    dsimp only
    split
    · exact Posted.refl s
    · split
      · exact ((posted_setCq _ _ _).trans (posted_cqEmit _ _ _)).trans (ih _)
      · exact Posted.refl s

theorem posted_eventEntry (r : Record) (s : State) : Posted s (eventEntry r s) := by
  unfold eventEntry
  dsimp only
  split
  · exact posted_eventPost _ _ _
  · exact Posted.refl s

/-! ### Raising records -/

theorem Quiet.refl (s : State) : Quiet s s := by constructor <;> rfl

theorem Quiet.trans {s t u : State} (h : Quiet s t) (k : Quiet t u) : Quiet s u :=
  ⟨k.pending.trans h.pending, k.active.trans h.active, k.job.trans h.job, k.cores.trans h.cores, k.units.trans h.units, k.phys.trans h.phys, k.confirm.trans h.confirm, k.turns.trans h.turns, k.rom.trans h.rom, k.mem.trans h.mem, k.program.trans h.program, k.last.trans h.last, k.goodStep.trans h.goodStep, k.intact.trans h.intact, k.fabric.trans h.fabric, k.eth.trans h.eth, k.power.trans h.power, k.clock.trans h.clock, k.sec.trans h.sec, k.pins.trans h.pins⟩

theorem Posted.quiet {s t : State} (h : Posted s t) : Quiet s t :=
  ⟨h.pending, h.active, h.job, h.cores, h.units, h.phys, h.confirm, h.turns, h.rom, h.mem, h.program, h.last, h.goodStep, h.intact, h.fabric, h.eth, h.power, h.clock, h.sec, h.pins⟩

theorem quiet_setReg (o : Nat) (v : Dword) (s : State) : Quiet s (s.setReg o v) := by constructor <;> rfl
theorem quiet_count (b n k : Nat) (s : State) : Quiet s (s.count b n k) := by constructor <;> rfl
theorem quiet_emit (x : Out) (s : State) : Quiet s (s.emit x) := by constructor <;> rfl
theorem quiet_setVec (v : Nat) (x : MsixVec) (s : State) : Quiet s (s.setVec v x) := by constructor <;> rfl
theorem quiet_setCq (q : Nat) (x : Cq) (s : State) : Quiet s (s.setCq q x) := by constructor <;> rfl
theorem quiet_setSq (r : Nat) (x : Sq) (s : State) : Quiet s (s.setSq r x) := by constructor <;> rfl

theorem quiet_queueRecord (r : Record) (s : State) : Quiet s (queueRecord r s) := by
  unfold queueRecord
  dsimp only
  split <;> split <;> (constructor <;> rfl)

/-- A classification by replay changes the due tasks, the open faults and the counts alone (R359, R363). -/
theorem permanentByReplay_eq (c : Cause) (r : Record) (s : State) :
    ∃ d u g, permanentByReplay c r s = { s with due := d, unclassified := u, regs := g } := by
  unfold permanentByReplay dueQuarantine
  dsimp only
  split
  · split
    · exact ⟨_, _, _, rfl⟩
    · split <;> exact ⟨_, _, _, rfl⟩
  · exact ⟨_, _, _, rfl⟩

theorem quiet_permanentByReplay (c : Cause) (r : Record) (s : State) : Quiet s (permanentByReplay c r s) := by
  obtain ⟨d, u, g, h⟩ := permanentByReplay_eq c r s
  rw [h]
  constructor <;> rfl

theorem quiet_stepMark (r : Record) (s : State) : Quiet s (stepMark r s) := by constructor <;> rfl

theorem quiet_hazardBit (c : Code) (s : State) : Quiet s (hazardBit c s) := by
  unfold hazardBit
  split
  · constructor <;> rfl
  · exact Quiet.refl s

theorem quiet_noteSpares (r : Record) (s : State) : Quiet s (noteSpares r s) := by
  unfold noteSpares
  split
  · constructor <;> rfl
  · exact Quiet.refl s

/-- What raising a record leaves as it was (R349 to R352, R490, R571). -/
theorem quiet_raise (c : Cause) (s : State) : Quiet s (raise c s) := by
  unfold raise
  refine Quiet.trans ?_ (posted_eventEntry _ _).quiet
  refine Quiet.trans ?_ (quiet_queueRecord _ _)
  refine Quiet.trans ?_ (quiet_noteSpares _ _)
  refine Quiet.trans ?_ (quiet_hazardBit _ _)
  refine Quiet.trans ?_ (quiet_permanentByReplay _ _ _)
  exact Quiet.trans (by constructor <;> rfl) (quiet_stepMark _ _)

/-- A fold of quiet operations is quiet. -/
theorem quiet_foldl {β : Type} (f : State → β → State) (h : ∀ s x, Quiet s (f s x)) (l : List β) (s : State) :
    Quiet s (l.foldl f s) := by
  induction l generalizing s with
  | nil => exact Quiet.refl s
  | cons x r ih => exact (h s x).trans (ih _)

theorem quiet_raiseAll (cs : List Cause) (s : State) : Quiet s (raiseAll cs s) :=
  quiet_foldl _ (fun s c => quiet_raise c s) cs s

/-- Raising a record takes one SEQ and leaves the rest of the MRAM as it was (R352). -/
theorem raise_mram (c : Cause) (s : State) : (raise c s).mram = { s.mram with nextSeq := s.mram.nextSeq + 1 } := by
  have q : ∀ (r : Record) (t : State), (queueRecord r t).mram = t.mram := by
    intro r t; unfold queueRecord; dsimp only; split <;> split <;> rfl
  have n : ∀ (r : Record) (t : State), (noteSpares r t).mram = t.mram := by
    intro r t; unfold noteSpares; split <;> rfl
  have h : ∀ (c : Code) (t : State), (hazardBit c t).mram = t.mram := by
    intro r t; unfold hazardBit; split <;> rfl
  have p : ∀ (c : Cause) (r : Record) (t : State), (permanentByReplay c r t).mram = t.mram := by
    intro c r t; obtain ⟨d, u, g, h⟩ := permanentByReplay_eq c r t; rw [h]
  unfold raise
  rw [(posted_eventEntry _ _).mram, q, n, h, p]
  rfl

/-- What raising a record does to the management fields (R571): the record waits in the queue, or is lost and counted when 4,096 wait. -/
theorem raise_mgmt (c : Cause) (s : State) : (raise c s).mgmt =
    if 4096 ≤ s.mgmt.queue.length then { s.mgmt with lost := s.mgmt.lost + 1 }
    else { s.mgmt with queue := s.mgmt.queue ++ [recordOf c s] } := by
  have n : ∀ (r : Record) (t : State), (noteSpares r t).mgmt = t.mgmt := by
    intro r t; unfold noteSpares; split <;> rfl
  have h : ∀ (c : Code) (t : State), (hazardBit c t).mgmt = t.mgmt := by
    intro r t; unfold hazardBit; split <;> rfl
  have p : ∀ (c : Cause) (r : Record) (t : State), (permanentByReplay c r t).mgmt = t.mgmt := by
    intro c r t; obtain ⟨d, u, g, h⟩ := permanentByReplay_eq c r t; rw [h]
  have q : ∀ (r : Record) (t : State), (queueRecord r t).mgmt =
      if 4096 ≤ t.mgmt.queue.length then { t.mgmt with lost := t.mgmt.lost + 1 } else { t.mgmt with queue := t.mgmt.queue ++ [r] } := by
    intro r t
    unfold queueRecord
    dsimp only
    have e : ∀ (u : State), u.mgmt = t.mgmt →
        ((if 4096 ≤ u.mgmt.queue.length then ({ u with mgmt := { u.mgmt with lost := u.mgmt.lost + 1 } }).count Off.mgtCount 2
          else { u with mgmt := { u.mgmt with queue := u.mgmt.queue ++ [r] } } : State)).mgmt =
        if 4096 ≤ t.mgmt.queue.length then { t.mgmt with lost := t.mgmt.lost + 1 } else { t.mgmt with queue := t.mgmt.queue ++ [r] } := by
      intro u hu
      split <;> rename_i x <;> rw [hu] at x <;> simp [x, hu]
    exact e _ (by split <;> rfl)
  unfold raise
  simp only []
  rw [(posted_eventEntry _ _).mgmt, q, n, h, p]
  rfl

/-- The management fields other than the record queue and the count of lost records are as they were. -/
theorem raise_boot (c : Cause) (s : State) : (raise c s).mgmt.boot = s.mgmt.boot := by
  have q : ∀ (r : Record) (t : State), (queueRecord r t).mgmt.boot = t.mgmt.boot := by
    intro r t; unfold queueRecord; dsimp only; split <;> split <;> rfl
  have n : ∀ (r : Record) (t : State), (noteSpares r t).mgmt = t.mgmt := by
    intro r t; unfold noteSpares; split <;> rfl
  have h : ∀ (c : Code) (t : State), (hazardBit c t).mgmt = t.mgmt := by
    intro r t; unfold hazardBit; split <;> rfl
  have p : ∀ (c : Cause) (r : Record) (t : State), (permanentByReplay c r t).mgmt = t.mgmt := by
    intro c r t; obtain ⟨d, u, g, h⟩ := permanentByReplay_eq c r t; rw [h]
  unfold raise
  rw [(posted_eventEntry _ _).mgmt, q, n, h, p]
  rfl

end Sys2Proof.Machine
end

