-- ==== Sys2Proof/Laws/Memory.lean ====
section
/-! SUPPORT. The stacks and the core-local memories: every operation on them keeps the canonical form, and what reads after
writes return. -/

namespace Sys2Proof.Machine

/-! ### The stacks -/

/-- A stored codeword is read back, and every other physical word is as before. -/
theorem stored_storeCode (s : State) (k j : Nat) (c : Codeword) :
    (s.storeCode k c).stored j = if j = k then c else s.stored j :=
  Sparse.look_store_eq (fun _ => 0) s.mem.stack k j c

theorem storeCode_wf (s : State) (k : Nat) (c : Codeword) (h : Memory.wf s.mem.stack = true) :
    Memory.wf (s.storeCode k c).mem.stack = true := Sparse.store_wf _ _ _ h

/-- Storing a codeword changes nothing of the memory but the stored words. -/
theorem storeCode_map (s : State) (k : Nat) (c : Codeword) :
    (s.storeCode k c).mem.map = s.mem.map ∧ (s.storeCode k c).mem.replicas = s.mem.replicas := ⟨rfl, rfl⟩

theorem storeWord_wf (t a : Nat) (w : Word) (s : State) (h : Memory.wf s.mem.stack = true) :
    Memory.wf (storeWord t a w s).mem.stack = true := by
  unfold storeWord
  dsimp only
  split
  · exact storeCode_wf _ _ _ h
  · split
    · exact storeCode_wf _ _ _ (storeCode_wf _ _ _ h)
    · exact storeCode_wf _ _ _ h
  · exact h

theorem storeWords_wf (t a : Nat) (l : List Word) (s : State) (h : Memory.wf s.mem.stack = true) :
    Memory.wf (storeWords t a l s).mem.stack = true := by
  induction l generalizing a s with
  | nil => exact h
  | cons w r ih => exact ih _ _ (storeWord_wf _ _ _ _ h)

/-- A report of a command leaves the memory as it was. -/
theorem report_mem (who : Reporter) (x : Cause) (s : State) : (report who x s).mem = s.mem := by
  unfold report
  split
  · split
    · rfl
    · exact (quiet_raise _ _).mem
  · split
    · split
      · rfl
      · exact (quiet_raise _ _).mem
    · rfl
  · split
    · split
      · rfl
      · exact (quiet_raise _ _).mem
    · rfl

/-- A write of the hub die's background keeps the canonical form. -/
theorem stackPut_wf (who : Reporter) (t a : Nat) (data : List Byte) (s : State) (h : Memory.wf s.mem.stack = true) :
    Memory.wf (stackPut who t a data s).mem.stack = true := by
  unfold stackPut
  dsimp only
  split
  · exact storeWords_wf _ _ _ _ h
  · rw [report_mem]; exact storeWords_wf _ _ _ _ h

/-- A foreground write keeps the canonical form. -/
theorem stackStore_wf (who : Reporter) (t a : Nat) (data : List Byte) (s : State) (h : Memory.wf s.mem.stack = true) :
    Memory.wf (stackStore who t a data s).mem.stack = true := stackPut_wf _ _ _ _ _ h

theorem dropWrite_mem (c : CoreRef) (s : State) : (dropWrite c s).mem = s.mem := by
  unfold dropWrite
  dsimp only
  split
  · rfl
  · rw [(quiet_raise _ _).mem]; rfl

/-- A write through a core window keeps the stacks as they were. -/
theorem windowStore_mem (c : CoreRef) (m : Space) (off : Nat) (data : List Byte) (s : State) :
    (windowStore c m off data s).mem = s.mem := by
  unfold windowStore
  split
  · rfl
  · exact dropWrite_mem _ _

/-! ### SEC-DED -/

/-- Check bits fit in seven bits. -/
theorem checkBits_lt (w : Word) : checkBits w < 128 := by
  have key : ∀ (l : List Nat) (n j : Nat), (∀ h ∈ l, h < 128) → checkFrom n j l < 128 := by
    intro l
    induction l with
    | nil => intro n j _; simp [checkFrom]
    | cons h r ih =>
      intro n j hl
      have hh : (if n.testBit j then h else 0) < 2 ^ 7 := by
        split
        · exact hl h (by simp)
        · decide
      exact Nat.xor_lt_two_pow hh (ih n (j + 1) (fun x hx => hl x (by simp [hx])))
  exact key _ _ _ (by decide)

/-- The data bits of the codeword of a word are the word. -/
theorem dataOf_codeword (w : Word) : dataOf (codeword w) = w := by
  have h := checkBits_lt w
  have hw := w.isLt
  apply BitVec.eq_of_toNat_eq
  simp only [dataOf, codeword, BitVec.toNat_ofNat, Nat.shiftLeft_eq]
  omega

/-- A stored word reads back as it was written, with no error. -/
theorem eccRead_codeword (w : Word) : eccRead (codeword w) = .correct w := by
  have h := checkBits_lt w
  have hw := w.isLt
  have hc : (codeword w).toNat >>> 32 = checkBits w := by
    simp only [codeword, BitVec.toNat_ofNat, Nat.shiftLeft_eq, Nat.shiftRight_eq_div_pow]
    omega
  have hs : syndrome (codeword w) = 0 := by simp [syndrome, dataOf_codeword, hc]
  simp [eccRead, hs, dataOf_codeword]

/-! ### Core-local memories -/

/-- The canonical form of a core-local memory. -/
def CoreMem.wf (m : CoreMem) : Bool := Sparse.wf m.unlisted m.cells

theorem CoreMem.unlisted_put (m : CoreMem) (i : Nat) (c : Codeword) : (m.put i c).unlisted = m.unlisted := rfl

theorem CoreMem.put_wf (m : CoreMem) (i : Nat) (c : Codeword) (h : m.wf = true) : (m.put i c).wf = true := by
  unfold CoreMem.wf
  rw [CoreMem.unlisted_put]
  exact Sparse.store_wf _ _ _ h

theorem CoreMem.putBytes_wf (m : CoreMem) (a : Nat) (l : List Byte) (h : m.wf = true) : (m.putBytes a l).wf = true := by
  induction l generalizing a m with
  | nil => exact h
  | cons b r ih =>
    unfold CoreMem.putBytes
    exact ih (m.putByte a b) (a + 1) (by unfold CoreMem.putByte; exact CoreMem.put_wf m (a / 4) _ h)

/-- A word that was put is read back, and every other word is as before. -/
theorem CoreMem.code_put (m : CoreMem) (i j : Nat) (c : Codeword) :
    (m.put i c).code j = if j = i then c else m.code j := by
  unfold CoreMem.code
  rw [CoreMem.unlisted_put]
  exact Sparse.look_store_eq m.unlisted m.cells i j c

/-- A memory after a gesso fill, and one at a step boundary, list nothing. -/
theorem CoreMem.zero_wf : CoreMem.zero.wf = true := rfl

/-! ### Bytes of a core-local memory -/

/-- A byte of a word with one byte replaced. -/
theorem bits_putBits (w : Word) (v i j : Nat) (hi : i < 4) (hj : j < 4) (hv : v < 256) :
    bits (putBits w (8 * i) 8 v) (8 * j) 8 = if j = i then v else bits w (8 * j) 8 := by
  have hw := w.isLt
  simp only [bits, putBits, BitVec.toNat_ofNat, Nat.shiftLeft_eq, Nat.shiftRight_eq_div_pow]
  obtain rfl | rfl | rfl | rfl : i = 0 ∨ i = 1 ∨ i = 2 ∨ i = 3 := by omega
  all_goals
    obtain rfl | rfl | rfl | rfl : j = 0 ∨ j = 1 ∨ j = 2 ∨ j = 3 := by omega
    all_goals simp; omega

theorem CoreMem.word_put (m : CoreMem) (i j : Nat) (w : Word) :
    (m.put i (codeword w)).word j = if j = i then w else m.word j := by
  unfold CoreMem.word
  rw [CoreMem.code_put]
  split
  · rw [eccRead_codeword]; rfl
  · rfl

/-- A byte that was stored is read back, and every other byte is as before. -/
theorem CoreMem.byte_putByte (m : CoreMem) (a x : Nat) (b : Byte) : (m.putByte a b).byte x = if x = a then b else m.byte x := by
  unfold CoreMem.putByte CoreMem.byte
  rw [CoreMem.word_put]
  have ha : a % 4 < 4 := Nat.mod_lt _ (by decide)
  have hx : x % 4 < 4 := Nat.mod_lt _ (by decide)
  by_cases h : x / 4 = a / 4
  · rw [if_pos h, bits_putBits _ _ _ _ ha hx b.isLt]
    by_cases e : x = a
    · subst e; simp
    · have : x % 4 ≠ a % 4 := by omega
      rw [if_neg this, if_neg e, h]
  · have : x ≠ a := by intro e; exact h (by rw [e])
    rw [if_neg h, if_neg this]

/-- Bytes that were stored are read back, and every other byte is as before. -/
theorem CoreMem.byte_putBytes (m : CoreMem) (a x : Nat) (l : List Byte) :
    (m.putBytes a l).byte x = if h : a ≤ x ∧ x - a < l.length then l[x - a]'h.2 else m.byte x := by
  induction l generalizing a m with
  | nil => simp [CoreMem.putBytes]
  | cons b r ih =>
    unfold CoreMem.putBytes
    rw [ih]
    by_cases h : a + 1 ≤ x ∧ x - (a + 1) < r.length
    · have h2 : a ≤ x ∧ x - a < (b :: r).length := by simp; omega
      rw [dif_pos h, dif_pos h2]
      have : x - a = (x - (a + 1)) + 1 := by omega
      simp [this]
    · rw [dif_neg h, CoreMem.byte_putByte]
      by_cases e : x = a
      · subst e
        have h2 : x ≤ x ∧ x - x < (b :: r).length := by simp
        rw [if_pos rfl, dif_pos h2]; simp
      · have h2 : ¬(a ≤ x ∧ x - a < (b :: r).length) := by simp; omega
        rw [if_neg e, dif_neg h2]

/-- A run of bytes that was stored is read back. -/
theorem CoreMem.bytes_putBytes (m : CoreMem) (a : Nat) (l : List Byte) : (m.putBytes a l).bytes a l.length = l := by
  apply List.ext_getElem
  · simp [CoreMem.bytes]
  · intro i h1 h2
    simp [CoreMem.bytes, CoreMem.byte_putBytes, h2]

end Sys2Proof.Machine
end

