-- ==== Sys2Proof/Laws/PerInstr.lean ====
section
/-! SUPPORT. A law of every command as syntax: what a well-formed command carries is bounded. One lemma for each constructor. -/

namespace Sys2Proof.Laws.WellFormed

/-- Bytes of data that a command carries from outside: a fetched line, a flit's payload, a message, a bulk frame. -/
def carried : Instr → Nat
  | .cacheLineFetchDone _ data => data.length
  | .flitReceive _ f _ => f.payload.length
  | .msgWrite m => m.payload.length
  | .msgReducePartial m => m.msg.payload.length
  | .msgMaxPartial m => m.msg.payload.length
  | .msgTokenPost m => m.payload.length
  | .msgRemoteReadRequest m => m.msg.payload.length
  | .msgRemoteReadResponse m => m.payload.length
  | .ethBulkWrite _ f => f.payload.length
  | .ethReadReq _ f => f.frame.payload.length
  | .ethMessage _ f => f.payload.length
  | _ => 0

/-- A well-formed command carries at most 1 MiB, the largest message (R406). -/
def Statement (i : Instr) : Prop := i.wf = true → carried i ≤ 1048576

theorem pushCommand (c : CoreRef) (p : PushRun) : Statement (.pushCommand c p) := fun _ => Nat.zero_le _
theorem pushResume (c : CoreRef) : Statement (.pushResume c) := fun _ => Nat.zero_le _
theorem engineBeginCommand (u : UnitRef) : Statement (.engineBeginCommand u) := fun _ => Nat.zero_le _
theorem epochRelease (c : CoreRef) (e : Engine) (operand : Nat) : Statement (.epochRelease c e operand) := fun _ => Nat.zero_le _
theorem commandComplete (u : UnitRef) (sigDiff : Option Word) : Statement (.commandComplete u sigDiff) := fun _ => Nat.zero_le _
theorem tokenTimeout (w : WaitSite) : Statement (.tokenTimeout w) := fun _ => Nat.zero_le _
theorem matrixProduct (c : CoreRef) (x : Conditions) : Statement (.matrixProduct c x) := fun _ => Nat.zero_le _
theorem exactModeProduct (c : CoreRef) (x : Conditions) : Statement (.exactModeProduct c x) := fun _ => Nat.zero_le _
theorem saffronSidePass (c : CoreRef) (x : Conditions) : Statement (.saffronSidePass c x) := fun _ => Nat.zero_le _
theorem streamQuantizeWrite (x : CoreRun) : Statement (.streamQuantizeWrite x) := fun _ => Nat.zero_le _
theorem vectorCopyConvert (c : CoreRef) (up : Option Upset) : Statement (.vectorCopyConvert c up) := fun _ => Nat.zero_le _
theorem vectorBinary (c : CoreRef) (up : Option Upset) : Statement (.vectorBinary c up) := fun _ => Nat.zero_le _
theorem vectorMinMax (c : CoreRef) (up : Option Upset) : Statement (.vectorMinMax c up) := fun _ => Nat.zero_le _
theorem vectorCompare (c : CoreRef) (up : Option Upset) : Statement (.vectorCompare c up) := fun _ => Nat.zero_le _
theorem vectorSelect (c : CoreRef) (up : Option Upset) : Statement (.vectorSelect c up) := fun _ => Nat.zero_le _
theorem vectorFma (c : CoreRef) (up : Option Upset) : Statement (.vectorFma c up) := fun _ => Nat.zero_le _
theorem vectorDivideRoot (c : CoreRef) (up : Option Upset) : Statement (.vectorDivideRoot c up) := fun _ => Nat.zero_le _
theorem tableFunction (c : CoreRef) (up : Option Upset) : Statement (.tableFunction c up) := fun _ => Nat.zero_le _
theorem tableFunctionTimesSource (c : CoreRef) (up : Option Upset) : Statement (.tableFunctionTimesSource c up) := fun _ => Nat.zero_le _
theorem rowReduction (c : CoreRef) (up : Option Upset) : Statement (.rowReduction c up) := fun _ => Nat.zero_le _
theorem draw (c : CoreRef) (up : Option Upset) : Statement (.draw c up) := fun _ => Nat.zero_le _
theorem operandCacheFill (c : CoreRef) (up : Option Upset) : Statement (.operandCacheFill c up) := fun _ => Nat.zero_le _
theorem checkSlot (c : CoreRef) (up : Option Upset) : Statement (.checkSlot c up) := fun _ => Nat.zero_le _
theorem firmwareCheckInsert (c : CoreRef) (position : Nat) (up : Option Upset) : Statement (.firmwareCheckInsert c position up) := fun _ => Nat.zero_le _
theorem stackRead (c : CoreRef) (x : PathErrs) : Statement (.stackRead c x) := fun _ => Nat.zero_le _
theorem stackWrite (x : CoreRun) : Statement (.stackWrite x) := fun _ => Nat.zero_le _
theorem remoteStackRead (x : CoreRead) : Statement (.remoteStackRead x) := fun _ => Nat.zero_le _
theorem cacheLineFetchDone (line : Dword) (data : List Byte) : Statement (.cacheLineFetchDone line data) := by
  intro h
  simp only [Instr.wf, Bool.and_eq_true, decide_eq_true_eq] at h
  simp only [carried]
  omega
theorem cacheInvalidate (c : CoreRef) : Statement (.cacheInvalidate c) := fun _ => Nat.zero_le _
theorem layoutCopyCommand (x : CoreRead) : Statement (.layoutCopyCommand x) := fun _ => Nat.zero_le _
theorem uuNorm (x : UnitRead) : Statement (.uuNorm x) := fun _ => Nat.zero_le _
theorem normDecision (t : Fin 4) (sum : Dword) : Statement (.normDecision t sum) := fun _ => Nat.zero_le _
theorem uuApply (t : Fin 4) (x : Conditions) (again : Bool) : Statement (.uuApply t x again) := fun _ => Nat.zero_le _
theorem uuEmitBackwardCopy (x : UnitRead) : Statement (.uuEmitBackwardCopy x) := fun _ => Nat.zero_le _
theorem uuEmitResidual (x : UnitRead) : Statement (.uuEmitResidual x) := fun _ => Nat.zero_le _
theorem bucketLaunch : Statement .bucketLaunch := fun _ => Nat.zero_le _
theorem collectiveStart (k : CollRun) : Statement (.collectiveStart k) := fun _ => Nat.zero_le _
theorem collectiveComplete (num : BitVec 32) : Statement (.collectiveComplete num) := fun _ => Nat.zero_le _
theorem flitReceive (p : Fin 48) (f : Flit) (lanes : LaneReport) : Statement (.flitReceive p f lanes) := by
  intro h
  simp only [Instr.wf, Flit.wf, Bool.and_eq_true, decide_eq_true_eq] at h
  simp only [carried]
  omega
theorem nackReceive (p : Fin 48) (ack : BitVec 12) : Statement (.nackReceive p ack) := fun _ => Nat.zero_le _
theorem replayTimeout (p : Fin 48) : Statement (.replayTimeout p) := fun _ => Nat.zero_le _
theorem signalDetect (p : Fin 48) : Statement (.signalDetect p) := fun _ => Nat.zero_le _
theorem lanesLocked (p : Fin 48) (lanes : Nat) : Statement (.lanesLocked p lanes) := fun _ => Nat.zero_le _
theorem trainingTimeout (p : Fin 48) : Statement (.trainingTimeout p) := fun _ => Nat.zero_le _
theorem linkLoss (p : Fin 48) : Statement (.linkLoss p) := fun _ => Nat.zero_le _
theorem discovery (p : Fin 48) (switch : BitVec 32) (swPort : BitVec 16) (plane : Byte) : Statement (.discovery p switch swPort plane) := fun _ => Nat.zero_le _
theorem fabPlanCheck (v : Dword) : Statement (.fabPlanCheck v) := fun _ => Nat.zero_le _
theorem timingBlockReceive (p : Fin 48) (b : TimingBlock) : Statement (.timingBlockReceive p b) := fun _ => Nat.zero_le _
theorem timePortSilence : Statement .timePortSilence := fun _ => Nat.zero_le _
theorem timeOffsetExceeded : Statement .timeOffsetExceeded := fun _ => Nat.zero_le _
theorem msgWrite (m : Msg) : Statement (.msgWrite m) := by
  intro h
  simp only [Instr.wf, Msg.wf, Bool.and_eq_true, decide_eq_true_eq] at h
  exact h.1.1.1
theorem msgReducePartial (m : MsgRead) : Statement (.msgReducePartial m) := by
  intro h
  simp only [Instr.wf, Msg.wf, Bool.and_eq_true, decide_eq_true_eq] at h
  exact h.1.1.1
theorem msgMaxPartial (m : MsgRead) : Statement (.msgMaxPartial m) := by
  intro h
  simp only [Instr.wf, Msg.wf, Bool.and_eq_true, decide_eq_true_eq] at h
  exact h.1.1.1
theorem msgTokenPost (m : Msg) : Statement (.msgTokenPost m) := by
  intro h
  simp only [Instr.wf, Msg.wf, Bool.and_eq_true, decide_eq_true_eq] at h
  exact h.1.1.1
theorem msgRemoteReadRequest (m : MsgRead) : Statement (.msgRemoteReadRequest m) := by
  intro h
  simp only [Instr.wf, Msg.wf, Bool.and_eq_true, decide_eq_true_eq] at h
  exact h.1.1.1
theorem msgRemoteReadResponse (m : Msg) : Statement (.msgRemoteReadResponse m) := by
  intro h
  simp only [Instr.wf, Msg.wf, Bool.and_eq_true, decide_eq_true_eq] at h
  exact h.1.1.1
theorem msgAck (src : BitVec 16) (coll chunk step : BitVec 32) : Statement (.msgAck src coll chunk step) := fun _ => Nat.zero_le _
theorem messageAckTimeout (dst : BitVec 16) (coll chunk step : BitVec 32) : Statement (.messageAckTimeout dst coll chunk step) := fun _ => Nat.zero_le _
theorem probe (p : Fin 48) (src : BitVec 16) (counter : Dword) : Statement (.probe p src counter) := fun _ => Nat.zero_le _
theorem probeReply (src : BitVec 16) (counter : Dword) : Statement (.probeReply src counter) := fun _ => Nat.zero_le _
theorem peerSilence (peer : BitVec 16) : Statement (.peerSilence peer) := fun _ => Nat.zero_le _
theorem probeUnanswered (peer : BitVec 16) : Statement (.probeUnanswered peer) := fun _ => Nat.zero_le _
theorem beacon (src : BitVec 16) (stopped : Bool) (cause : Byte) (delay : BitVec 32) (step : BitVec 32) : Statement (.beacon src stopped cause delay step) := fun _ => Nat.zero_le _
theorem beaconInterval (delay : BitVec 32) (cause : Byte) : Statement (.beaconInterval delay cause) := fun _ => Nat.zero_le _
theorem abortControlFlit (src : BitVec 16) (reason : Byte) (coll step : BitVec 32) : Statement (.abortControlFlit src reason coll step) := fun _ => Nat.zero_le _
theorem collectiveDeadline (num : BitVec 32) : Statement (.collectiveDeadline num) := fun _ => Nat.zero_le _
theorem hotStackAbortTimeout : Statement .hotStackAbortTimeout := fun _ => Nat.zero_le _
theorem launch : Statement .launch := fun _ => Nat.zero_le _
theorem fabInjectArm (v : Dword) : Statement (.fabInjectArm v) := fun _ => Nat.zero_le _
theorem ethBulkWrite (e : Fin 2) (f : BulkFrame) : Statement (.ethBulkWrite e f) := by
  intro h
  simp only [Instr.wf, BulkFrame.wf, decide_eq_true_eq] at h
  simp only [carried]
  omega
theorem ethReadReq (e : Fin 2) (f : FrameRead) : Statement (.ethReadReq e f) := by
  intro h
  simp only [Instr.wf, BulkFrame.wf, decide_eq_true_eq] at h
  simp only [carried]
  omega
theorem ethMessage (e : Fin 2) (f : BulkFrame) : Statement (.ethMessage e f) := by
  intro h
  simp only [Instr.wf, BulkFrame.wf, decide_eq_true_eq] at h
  simp only [carried]
  omega
theorem ethFrameDiscard (e : Fin 2) : Statement (.ethFrameDiscard e) := fun _ => Nat.zero_le _
theorem sqTail (r : Fin 16) (v : Word) : Statement (.sqTail r v) := fun _ => Nat.zero_le _
theorem cqHead (r : Fin 16) (v : Word) : Statement (.cqHead r v) := fun _ => Nat.zero_le _
theorem doorbellPairWrite (r : Fin 16) (v : Dword) : Statement (.doorbellPairWrite r v) := fun _ => Nat.zero_le _
theorem sqEnable (r : Fin 16) (v : Dword) : Statement (.sqEnable r v) := fun _ => Nat.zero_le _
theorem sqDisable (r : Fin 16) (v : Dword) : Statement (.sqDisable r v) := fun _ => Nat.zero_le _
theorem cqEnable (r : Fin 16) (v : Dword) : Statement (.cqEnable r v) := fun _ => Nat.zero_le _
theorem cqDisable (r : Fin 16) (v : Dword) : Statement (.cqDisable r v) := fun _ => Nat.zero_le _
theorem descriptorFetch (r : Fin 16) (slots : List (BitVec 512)) : Statement (.descriptorFetch r slots) := fun _ => Nat.zero_le _
theorem nop (r : Fin 16) : Statement (.nop r) := fun _ => Nat.zero_le _
theorem loadProgram (r : Fin 16) (read : ImageRead) : Statement (.loadProgram r read) := fun _ => Nat.zero_le _
theorem unload (r : Fin 16) : Statement (.unload r) := fun _ => Nat.zero_le _
theorem runStep (r : Fin 16) : Statement (.runStep r) := fun _ => Nat.zero_le _
theorem transfer (r : Fin 16) (read : HostMove) : Statement (.transfer r read) := fun _ => Nat.zero_le _
theorem layoutCopy (r : Fin 16) (c : CopyRun) : Statement (.layoutCopy r c) := fun _ => Nat.zero_le _
theorem ckptSave (r : RingRead) : Statement (.ckptSave r) := fun _ => Nat.zero_le _
theorem ckptRestore (r : Fin 16) (read : HostMove) : Statement (.ckptRestore r read) := fun _ => Nat.zero_le _
theorem sanitize (r : Fin 16) : Statement (.sanitize r) := fun _ => Nat.zero_le _
theorem gessoFillDone : Statement .gessoFillDone := fun _ => Nat.zero_le _
theorem sessionOpen (r : Fin 16) : Statement (.sessionOpen r) := fun _ => Nat.zero_le _
theorem sessionClose (r : Fin 16) : Statement (.sessionClose r) := fun _ => Nat.zero_le _
theorem messageBuffer (r : Fin 16) : Statement (.messageBuffer r) := fun _ => Nat.zero_le _
theorem rankTable (r : Fin 16) (read : HostRead) : Statement (.rankTable r read) := fun _ => Nat.zero_le _
theorem abort (r : Fin 16) : Statement (.abort r) := fun _ => Nat.zero_le _
theorem violatingAccess (a : BarAccess) : Statement (.violatingAccess a) := fun _ => Nat.zero_le _
theorem hostRequestError (r : Fin 16) (addr : Dword) : Statement (.hostRequestError r addr) := fun _ => Nat.zero_le _
theorem hostReadTimeout (r : Fin 16) (addr : Dword) : Statement (.hostReadTimeout r addr) := fun _ => Nat.zero_le _
theorem ucieModuleLost (m : Fin 2) : Statement (.ucieModuleLost m) := fun _ => Nat.zero_le _
theorem ucieLinkDown : Statement .ucieLinkDown := fun _ => Nat.zero_le _
theorem ucieLinkReturn (modules : Fin 3) : Statement (.ucieLinkReturn modules) := fun _ => Nat.zero_le _
theorem functionLevelReset : Statement .functionLevelReset := fun _ => Nat.zero_le _
theorem d3hotEntry : Statement .d3hotEntry := fun _ => Nat.zero_le _
theorem coalesceTimeout (q : Fin 16) : Statement (.coalesceTimeout q) := fun _ => Nat.zero_le _
theorem stepEnd (m : StepMeasure) : Statement (.stepEnd m) := fun _ => Nat.zero_le _
theorem classifyByHistory (seq : BitVec 32) : Statement (.classifyByHistory seq) := fun _ => Nat.zero_le _
theorem confirmationTestDone (t : Fin 4) (pass : Bool) : Statement (.confirmationTestDone t pass) := fun _ => Nat.zero_le _
theorem iftDue (t : Fin 4) (p : Fin 68) : Statement (.iftDue t p) := fun _ => Nat.zero_le _
theorem iftSegmentDone (t : Fin 4) (p : Fin 68) (pass : Bool) : Statement (.iftSegmentDone t p pass) := fun _ => Nat.zero_le _
theorem cmpInjectArm (v : Word) : Statement (.cmpInjectArm v) := fun _ => Nat.zero_le _
theorem logDrain : Statement .logDrain := fun _ => Nat.zero_le _
theorem varnishRead (q : Fin 384) (i : Nat) (errs : ReadErrs) : Statement (.varnishRead q i errs) := fun _ => Nat.zero_le _
theorem stripeRetire (q : Fin 384) (i : Nat) : Statement (.stripeRetire q i) := fun _ => Nat.zero_le _
theorem ceWindowEnd : Statement .ceWindowEnd := fun _ => Nat.zero_le _
theorem channelMapOut (q : Fin 384) : Statement (.channelMapOut q) := fun _ => Nat.zero_le _
theorem relocationStart : Statement .relocationStart := fun _ => Nat.zero_le _
theorem replicasAcknowledged : Statement .replicasAcknowledged := fun _ => Nat.zero_le _
theorem stripeCopyDone : Statement .stripeCopyDone := fun _ => Nat.zero_le _
theorem oldStripeRelease : Statement .oldStripeRelease := fun _ => Nat.zero_le _
theorem channelDead (q : Fin 384) : Statement (.channelDead q) := fun _ => Nat.zero_le _
theorem enableAssert : Statement .enableAssert := fun _ => Nat.zero_le _
theorem bootRomStart : Statement .bootRomStart := fun _ => Nat.zero_le _
theorem firmwareImageCheck : Statement .firmwareImageCheck := fun _ => Nat.zero_le _
theorem ucieTrainingDone : Statement .ucieTrainingDone := fun _ => Nat.zero_le _
theorem enableDeassert : Statement .enableDeassert := fun _ => Nat.zero_le _
theorem inputUndervoltage : Statement .inputUndervoltage := fun _ => Nat.zero_le _
theorem inputRecovered : Statement .inputRecovered := fun _ => Nat.zero_le _
theorem inputOvervoltage : Statement .inputOvervoltage := fun _ => Nat.zero_le _
theorem railOutOfRegulation (rail : BitVec 10) : Statement (.railOutOfRegulation rail) := fun _ => Nat.zero_le _
theorem thermalTrip (x : Sensor) : Statement (.thermalTrip x) := fun _ => Nat.zero_le _
theorem resetNLow : Statement .resetNLow := fun _ => Nat.zero_le _
theorem resetNRelease : Statement .resetNRelease := fun _ => Nat.zero_le _
theorem mgtReset (v : Dword) : Statement (.mgtReset v) := fun _ => Nat.zero_le _
theorem limiterSample (watts : Nat) (vin4mv : BitVec 16) : Statement (.limiterSample watts vin4mv) := fun _ => Nat.zero_le _
theorem governor : Statement .governor := fun _ => Nat.zero_le _
theorem stackOver95 (k : Fin 24) (temp : BitVec 16) : Statement (.stackOver95 k temp) := fun _ => Nat.zero_le _
theorem stackOver105 (k : Fin 24) (temp : BitVec 16) : Statement (.stackOver105 k temp) := fun _ => Nat.zero_le _
theorem tileOver100 (t : Fin 4) (temp : BitVec 16) : Statement (.tileOver100 t temp) := fun _ => Nat.zero_le _
theorem thermalResponseClear (x : Sensor) (temp : BitVec 16) : Statement (.thermalResponseClear x temp) := fun _ => Nat.zero_le _
theorem floorWindow (femtojoules products : Nat) : Statement (.floorWindow femtojoules products) := fun _ => Nat.zero_le _
theorem calibrationSave : Statement .calibrationSave := fun _ => Nat.zero_le _
theorem fwUpdateGo (v : Dword) : Statement (.fwUpdateGo v) := fun _ => Nat.zero_le _
theorem fwUpdateDone (read : HostRead) : Statement (.fwUpdateDone read) := fun _ => Nat.zero_le _
theorem fwCommit (v : Dword) : Statement (.fwCommit v) := fun _ => Nat.zero_le _
theorem attestGo (v : Dword) : Statement (.attestGo v) := fun _ => Nat.zero_le _
theorem attestDone (hostOk : Bool) : Statement (.attestDone hostOk) := fun _ => Nat.zero_le _
theorem watchdogExpiry (core : Fin 4) : Statement (.watchdogExpiry core) := fun _ => Nat.zero_le _
theorem managementRestart : Statement .managementRestart := fun _ => Nat.zero_le _
theorem loadWindow (busy : List Byte) : Statement (.loadWindow busy) := fun _ => Nat.zero_le _
theorem telemetrySnapshot : Statement .telemetrySnapshot := fun _ => Nat.zero_le _
theorem calibrationDisagree (unit : UnitId) (region : Fin 6) : Statement (.calibrationDisagree unit region) := fun _ => Nat.zero_le _
theorem calibrationRelax (unit : UnitId) (region : Fin 6) : Statement (.calibrationRelax unit region) := fun _ => Nat.zero_le _
theorem monitorSample (m : Fin 64) (v : BitVec 32) : Statement (.monitorSample m v) := fun _ => Nat.zero_le _
theorem monitorClear (m : Fin 64) (v : Dword) : Statement (.monitorClear m v) := fun _ => Nat.zero_le _
theorem turnArm (v : Dword) : Statement (.turnArm v) := fun _ => Nat.zero_le _
theorem turnDisarm (v : Dword) : Statement (.turnDisarm v) := fun _ => Nat.zero_le _
theorem turnTimeReached : Statement .turnTimeReached := fun _ => Nat.zero_le _
theorem shadowRefillDone : Statement .shadowRefillDone := fun _ => Nat.zero_le _
theorem w1cClear (offset : Nat) (v : Dword) : Statement (.w1cClear offset v) := fun _ => Nat.zero_le _
theorem registerWrite (offset : Nat) (width : Nat) (v : Dword) : Statement (.registerWrite offset width v) := fun _ => Nat.zero_le _
theorem i3cPrivateRead (n : Nat) : Statement (.i3cPrivateRead n) := fun _ => Nat.zero_le _
theorem i3cPointerWrite (bytes : List Byte) : Statement (.i3cPointerWrite bytes) := fun _ => Nat.zero_le _
theorem i3cStatusRefresh : Statement .i3cStatusRefresh := fun _ => Nat.zero_le _
theorem bypass (tdi : Bool) : Statement (.bypass tdi) := fun _ => Nat.zero_le _
theorem idcode : Statement .idcode := fun _ => Nat.zero_le _
theorem samplePreload (cells : List Bool) : Statement (.samplePreload cells) := fun _ => Nat.zero_le _
theorem extest (cells : List Bool) : Statement (.extest cells) := fun _ => Nat.zero_le _
theorem ethernetPortUp (e : Fin 2) : Statement (.ethernetPortUp e) := fun _ => Nat.zero_le _
theorem ethernetPortDown (e : Fin 2) : Statement (.ethernetPortDown e) := fun _ => Nat.zero_le _
theorem holdUpCharged : Statement .holdUpCharged := fun _ => Nat.zero_le _
theorem inputRemoved : Statement .inputRemoved := fun _ => Nat.zero_le _
theorem d3hotExit : Statement .d3hotExit := fun _ => Nat.zero_le _
theorem msixVectorUnmask (v : Fin 32) : Statement (.msixVectorUnmask v) := fun _ => Nat.zero_le _

end Sys2Proof.Laws.WellFormed
end

