-- ==== Sys2Proof/Laws/Read.lean ====
section
/-! SUPPORT. What each accessor reads after each update of the same kind of thing. -/

namespace Sys2Proof.Machine

/-! ### Registers -/

/-- A register set reads as set, and every other one as before. -/
theorem State.reg_setReg (s : State) (o p : Nat) (v : Dword) : (s.setReg o v).reg p = if p = o then v else s.reg p :=
  Sparse.look_store_eq regReset s.regs o p v

@[simp] theorem State.reg_setReg_same (s : State) (o : Nat) (v : Dword) : (s.setReg o v).reg o = v := by simp [State.reg_setReg]

theorem State.reg_setReg_ne (s : State) {o p : Nat} (v : Dword) (h : p ≠ o) : (s.setReg o v).reg p = s.reg p := by simp [State.reg_setReg, h]

/-- A counter after counting. -/
theorem State.reg_count_same (s : State) (b n k : Nat) : (s.count b n k).reg (b + 8 * n) = satAdd (s.reg (b + 8 * n)) k := by
  simp [State.count]

theorem State.reg_count_ne (s : State) {b n p : Nat} (k : Nat) (h : p ≠ b + 8 * n) : (s.count b n k).reg p = s.reg p :=
  State.reg_setReg_ne s _ h

/-- The values in force are not those that the host sets. -/
@[simp] theorem State.act_setReg (s : State) (o p : Nat) (v : Dword) : (s.setReg o v).act p = s.act p := rfl
@[simp] theorem State.inJob_setReg (s : State) (o p : Nat) (v : Dword) : (s.setReg o v).inJob p = s.inJob p := rfl

/-! ### Cores -/

theorem coreKey_inj {c d : CoreRef} (h : coreKey c = coreKey d) : c = d := by
  obtain ⟨⟨a, ha⟩, ⟨b, hb⟩⟩ := c
  obtain ⟨⟨x, hx⟩, ⟨y, hy⟩⟩ := d
  simp only [coreKey] at h
  have h1 : a = x := by omega
  have h2 : b = y := by omega
  subst h1; subst h2; rfl

@[simp] theorem State.core_setCore_same (s : State) (c : CoreRef) (k : CoreSt) : (s.setCore c k).core c = k :=
  Sparse.look_store (fun _ => CoreSt.empty) s.cores (coreKey c) k

theorem State.core_setCore_ne (s : State) {c d : CoreRef} (k : CoreSt) (h : d ≠ c) : (s.setCore c k).core d = s.core d :=
  Sparse.look_store_ne (fun _ => CoreSt.empty) s.cores k (fun e => h (coreKey_inj e))

@[simp] theorem State.core_modCore_same (s : State) (c : CoreRef) (f : CoreSt → CoreSt) : (s.modCore c f).core c = f (s.core c) :=
  State.core_setCore_same s c _

theorem State.core_modCore_ne (s : State) {c d : CoreRef} (f : CoreSt → CoreSt) (h : d ≠ c) : (s.modCore c f).core d = s.core d :=
  State.core_setCore_ne s _ h

theorem engineNo_inj {e f : Engine} (h : engineNo e = engineNo f) : e = f := by
  cases e <;> cases f <;> first | rfl | (simp [engineNo] at h)

@[simp] theorem CoreSt.run_setRun_same (k : CoreSt) (e : Engine) (r : Option Running) : (k.setRun e r).run e = r :=
  Sparse.look_store (fun _ => none) k.running (engineNo e) r

theorem CoreSt.run_setRun_ne (k : CoreSt) {e f : Engine} (r : Option Running) (h : f ≠ e) : (k.setRun e r).run f = k.run f :=
  Sparse.look_store_ne (fun _ => none) k.running r (fun x => h (engineNo_inj x))

@[simp] theorem CoreSt.queue_setQueue_same (k : CoreSt) (e : Engine) (q : List QCmd) : (k.setQueue e q).queue e = q :=
  Sparse.look_store (fun _ => []) k.queues (engineNo e) q

theorem CoreSt.queue_setQueue_ne (k : CoreSt) {e f : Engine} (q : List QCmd) (h : f ≠ e) : (k.setQueue e q).queue f = k.queue f :=
  Sparse.look_store_ne (fun _ => []) k.queues q (fun x => h (engineNo_inj x))

@[simp] theorem CoreSt.queue_setRun (k : CoreSt) (e f : Engine) (r : Option Running) : (k.setRun e r).queue f = k.queue f := rfl
@[simp] theorem CoreSt.run_setQueue (k : CoreSt) (e f : Engine) (q : List QCmd) : (k.setQueue e q).run f = k.run f := rfl

@[simp] theorem CoreSt.mem_setMem_same (k : CoreSt) (m : Space) (v : CoreMem) : (k.setMem m v).mem m = v := by cases m <;> rfl

theorem CoreSt.mem_setMem_ne (k : CoreSt) {m n : Space} (v : CoreMem) (h : n ≠ m) : (k.setMem m v).mem n = k.mem n := by
  cases m <;> cases n <;> first | rfl | exact absurd rfl h

/-- Changing the command an engine runs. -/
theorem run_modRun (c : CoreRef) (e : Engine) (f : Running → Running) (s : State) :
    ((modRun c e f s).core c).run e = ((s.core c).run e).map f := by simp [modRun]

/-! ### Update units -/

@[simp] theorem State.uu_setUU_same (s : State) (t : Nat) (u : UnitSt) : (s.setUU t u).uu t = u :=
  Sparse.look_store (fun _ => UnitSt.empty) s.units t u

theorem State.uu_setUU_ne (s : State) {t v : Nat} (u : UnitSt) (h : v ≠ t) : (s.setUU t u).uu v = s.uu v :=
  Sparse.look_store_ne (fun _ => UnitSt.empty) s.units u h

/-! ### Host interface -/

@[simp] theorem State.vec_setVec_same (s : State) (v : Nat) (x : MsixVec) : (s.setVec v x).vec v = x :=
  Sparse.look_store msixReset s.host.vectors v x

@[simp] theorem State.cq_setCq_same (s : State) (q : Nat) (x : Cq) : (s.setCq q x).cq q = x :=
  Sparse.look_store cqReset s.host.cqs q x

theorem State.cq_setCq_ne (s : State) {q p : Nat} (x : Cq) (h : p ≠ q) : (s.setCq q x).cq p = s.cq p :=
  Sparse.look_store_ne cqReset s.host.cqs x h

@[simp] theorem State.sq_setSq_same (s : State) (r : Nat) (x : Sq) : (s.setSq r x).sq r = x :=
  Sparse.look_store sqReset s.host.sqs r x

theorem State.sq_setSq_ne (s : State) {r p : Nat} (x : Sq) (h : p ≠ r) : (s.setSq r x).sq p = s.sq p :=
  Sparse.look_store_ne sqReset s.host.sqs x h

/-! ### Stacks -/

@[simp] theorem State.chan_setChan_same (s : State) (q : Nat) (c : Channel) : (s.setChan q c).chan q = c :=
  Sparse.look_store chanReset s.mem.channels q c

theorem State.chan_setChan_ne (s : State) {q p : Nat} (c : Channel) (h : p ≠ q) : (s.setChan q c).chan p = s.chan p :=
  Sparse.look_store_ne chanReset s.mem.channels c h

@[simp] theorem State.entry_setEntry_same (s : State) (n : Nat) (e : MapEntry) : (s.setEntry n e).entry n = e :=
  Sparse.look_store mapReset s.mem.map n e

theorem State.entry_setEntry_ne (s : State) {n m : Nat} (e : MapEntry) (h : m ≠ n) : (s.setEntry n e).entry m = s.entry m :=
  Sparse.look_store_ne mapReset s.mem.map e h

@[simp] theorem State.stored_storeCode_same (s : State) (k : Nat) (c : Codeword) : (s.storeCode k c).stored k = c :=
  Sparse.look_store (fun _ => 0) s.mem.stack k c

/-! ### What raising a record leaves readable -/

theorem core_of_cores {s t : State} (h : t.cores = s.cores) (c : CoreRef) : t.core c = s.core c := by simp [State.core, h]
theorem uu_of_units {s t : State} (h : t.units = s.units) (v : Nat) : t.uu v = s.uu v := by simp [State.uu, h]

@[simp] theorem core_raise (x : Cause) (s : State) (c : CoreRef) : (raise x s).core c = s.core c := core_of_cores (quiet_raise x s).cores c
@[simp] theorem uu_raise (x : Cause) (s : State) (v : Nat) : (raise x s).uu v = s.uu v := uu_of_units (quiet_raise x s).units v
@[simp] theorem raise_mem (x : Cause) (s : State) : (raise x s).mem = s.mem := (quiet_raise x s).mem
@[simp] theorem raise_cores (x : Cause) (s : State) : (raise x s).cores = s.cores := (quiet_raise x s).cores
@[simp] theorem raise_units (x : Cause) (s : State) : (raise x s).units = s.units := (quiet_raise x s).units
@[simp] theorem raise_phys (x : Cause) (s : State) : (raise x s).phys = s.phys := (quiet_raise x s).phys
@[simp] theorem raise_fabric (x : Cause) (s : State) : (raise x s).fabric = s.fabric := (quiet_raise x s).fabric
@[simp] theorem raise_program (x : Cause) (s : State) : (raise x s).program = s.program := (quiet_raise x s).program
@[simp] theorem raise_power (x : Cause) (s : State) : (raise x s).power = s.power := (quiet_raise x s).power
@[simp] theorem raise_clock (x : Cause) (s : State) : (raise x s).clock = s.clock := (quiet_raise x s).clock
@[simp] theorem raise_pins (x : Cause) (s : State) : (raise x s).pins = s.pins := (quiet_raise x s).pins
@[simp] theorem raise_pending (x : Cause) (s : State) : (raise x s).pending = s.pending := (quiet_raise x s).pending

end Sys2Proof.Machine
end

