-- ==== Sys2Proof/Tests/Slice0.lean ====
section
/-! SUPPORT. The author's own tests: an ill-formed command for each check of WellFormed, small cases whose expected values
are worked out by hand from the manual's rules and examples, and for each statement that has premises a state and
operands that meet them. -/

namespace Sys2Proof.Tests

open Sys2Proof Sys2Proof.Machine

/-- The table gives no command any bits, so no word spells one. -/
theorem test_no_bits : decodeTableWord 16 0 = none ∧ State.reset.withFetchWord 16 0 = State.reset := by decide

/-! ### Small states -/

def c0 : CoreRef := ⟨0, 0⟩
def c1 : CoreRef := ⟨0, 1⟩

/-- An engine command with one repetition and nothing else but its body. -/
def cmdOf (b : Body) : EngineCmd :=
  { waits := [], posts := [], remote := [], palStart := 0, palCount := 1, repeats := 1, strides := [], mark := .none, body := b }

def queued (b : Body) : QCmd := { cmd := cmdOf b, tag := 0, vpos := 0 }

/-- A command that has begun and is to be carried out. -/
def runOf (b : Body) : Running :=
  { q := queued b, noop := false, refused := false, hazard := false, suppressed := [], badReads := [], begun := 0, done := false,
    released := [], status := 0, quant := none, raised := [], checks := 3, copy := 0 }

/-- The module after reset with its firmware running and its link up. -/
def ready : State :=
  { State.reset with mgmt := { Mgmt.reset with boot := .ready }, host := { HostIf.reset with modules := 2 } }

/-- `s` with a command on an engine of core 0. -/
def engaged (e : Engine) (r : Running) (s : State) : State := s.modCore c0 (fun k => k.setRun e (some r))

/-- `s` with one queued command on an engine of core 0. -/
def waitingOn (e : Engine) (q : QCmd) (s : State) : State := s.modCore c0 (fun k => k.setQueue e [q])

/-- `s` with region 0 of the scratchpad of core 0 declared, 4 KiB at 0, at epoch `n`, owned by `w`. -/
def regioned (n : BitVec 16) (w : Option UnitRef) (s : State) : State :=
  s.modCore c0 (fun k => k.setRegion .sp 0 { base := 0, size := 4096, epoch := n, owner := w })

/-- An operand in that region. -/
def op0 (n : BitVec 16) (release : Bool) : RegionOp := { space := .sp, region := 0, epoch := n, offset := 0, release := release }

/-- A step that has just begun. -/
def stepNow : StepRun :=
  { ring := 0, number := 7, arg := 0, replay := false, start := 0, applied := false, normSent := false, invalid := false,
    globalNorm := none, skipped := false, noUpdates := false, abortReasons := [], causes := [], records := 0, valueVary := 0,
    timingVary := 0, faults := [], closed := [], launched := 0, limited := false, stackResp := false, tileResp := false,
    aborted := false, tileHot := 0, stackHot := 0 }

/-- An image with nothing in it. -/
def image0 : Image :=
  { major := 1, minor := 0, shape := 0, cls := 0, marks := [], sampling := none, fullRedundancy := false, test := false,
    abortNonfinite := false, needsFabric := false, regions := [], work := [], allocations := [], microtables := [], palettes := [],
    buckets := [], sections := [], bytes := [] }

def program0 : Program := { id := 1, image := image0, seed := 0, launch := none, begun := true, loadedOn := 0 }

/-- The module with a step of a loaded program running. -/
def stepping : State := { ready with program := some program0, step := some stepNow }

def params0 : QuantParams :=
  { out := .fp4, group := 32, scaleFmt := .e8m0, rowScale := .none, rot := 0, rotStream := 0, saffron := [], saffronOut := .e4m3,
    round := .rne, roundStream := 0, rung := 0, clipLimit := 0, satLimit := 0, lostLimit := 0 }

/-- A quantizing command over one row of 32 elements. -/
def quant0 : QuantCmd :=
  { p := params0, saffronList := none, saffronCount := 0, src := op0 0 false, srcFmt := .fp32, rows := 1, cols := 32, stride := 128,
    turned := false, stored := none, firstIdx := 0, rowLen := 32, index0 := 0, indexRow := 32, indexCol := 1, rowScale := none, chanMax := none,
    elemDst := some (.region { op0 0 false with offset := 1024 }), layout := 0, elemStride := 16, pieceGap := 0, scaleDst := none,
    scaleLayout := 0, scaleStride := 1, rowScaleDst := none, saffronDst := none, stats := none }

/-- A stored FP4 matrix of one row of 32 elements. -/
def narrow0 : NarrowTensor :=
  { data := .region (op0 0 false), fmt := .fp4, pieces := 1, pieceGap := 0, rows := 1, cols := 32, storedRows := 1, storedCols := 32, stride := 16, layout := 0, half := none,
    group := 32, scaleFmt := .e8m0, scales := .region { op0 0 false with offset := 512 }, scaleLayout := 0, scaleStride := 1, rowScales := none, rot := 0, rotStream := 0 }

def product0 : ProductCmd :=
  { a := .narrow narrow0, transposed := false, b := .narrow narrow0, colWise := true, dst := { op0 0 false with space := .acc }, dstStride := 4,
    fresh := true, packing := .passes, drop := false }

def exact0 : ExactCmd :=
  { a := .narrow narrow0, transposed := false, b := .narrow narrow0, colWise := true, lr := op0 0 false, dst := { op0 0 false with offset := 1024 },
    dstStride := 4, opens := true, closes := false, anchor := 0, twoWindow := false, packing := .passes, drop := false, row0 := 0, blockRows := 1, block := 0 }

def stream0 (off : Nat) : VStream :=
  { op := { op0 0 false with offset := off }, fmt := .fp32, stride := 1, rowStride := 16, group := 32, scaleFmt := .e8m0, scales := none, rowScales := none,
    stored := none }

/-- A vector command over one row of four FP32 elements. -/
def vector0 (o : VOp) : VectorCmd :=
  { vop := o, srcs := [stream0 0, stream0 16, stream0 32].take o.sources, dst := stream0 64, count := 4, round := .rne, roundStream := 0, code := none,
    index0 := 0, indexRow := 0 }

def update0 (ph : Phase) : UpdateCmd :=
  { phase := ph, tensor := 1, rows := 1, cols := 32, first := 0, count := 32, micro := 0, hyper := 0, grad := 0, master := 0, m1 := 0, m2 := 0,
    copy := 0, copyScales := 0, copyRowScales := 0, rowScalesIn := 0, saffronOut := 0, rungMap := 0, fallback := 0, fallbackBytes := 0, out := 0,
    momentFmt := .fp32, momentRound := .rne, byColumns := false, copyLayout := 0, outLayout := 0, step := 0, seq := 0, enc := params0,
    copyEnc := params0, stats := none, mark := .none, waits := [], posts := [] }

def uq (ph : Phase) (n : BitVec 27) : UQ := { cmd := { update0 ph with seq := n }, tag := 0, by_ := c0, repeated := false }

def urun (ph : Phase) : URunning := { q := uq ph 0, noop := false, refused := false, begun := 0, done := false, hazard := false, raised := [] }

/-- `s` with a command running on update unit 0. -/
def updating (ph : Phase) (s : State) : State := s.setUU 0 { UnitSt.empty with running := some (urun ph) }

/-! ### Ill-formed commands that WellFormed refuses -/

def pushWf (p : Pushed) : Bool := Instr.wf (.pushCommand c0 { pushed := p, residue := false })

theorem test_wf_waits : pushWf (.engine .stream { cmdOf .post with waits := List.replicate 5 ⟨0, 1⟩ }) = false := by decide
theorem test_wf_posts : pushWf (.engine .stream { cmdOf .post with posts := List.replicate 5 ⟨⟨0, 1⟩, none⟩ }) = false := by decide
theorem test_wf_palette_start : pushWf (.engine .stream { cmdOf .post with palStart := 4096 }) = false := by decide
theorem test_wf_palette_count : pushWf (.engine .stream { cmdOf .post with palCount := 4097 }) = false := by decide
theorem test_wf_repeats : pushWf (.engine .stream { cmdOf .post with repeats := 65536 }) = false := by decide
theorem test_wf_queue : pushWf (.engine .matrix (cmdOf .invalidate)) = false := by decide
theorem test_wf_push_ok : pushWf (.engine .matrix (cmdOf (.product product0))) = true := by decide
theorem test_wf_group_size : pushWf (.engine .stream (cmdOf (.quantize { quant0 with p := { params0 with group := 48 } }))) = false := by decide
theorem test_wf_wide_source : pushWf (.engine .stream (cmdOf (.quantize { quant0 with srcFmt := .e4m3 }))) = false := by decide
theorem test_wf_quant_round : pushWf (.engine .stream (cmdOf (.quantize { quant0 with p := { params0 with round := .rz } }))) = false := by decide
theorem test_wf_quant_rung : pushWf (.engine .stream (cmdOf (.quantize { quant0 with p := { params0 with rung := 3 } }))) = false := by decide
theorem test_wf_quant_cache : pushWf (.engine .stream (cmdOf (.quantize { quant0 with src := { op0 0 false with space := .oc } }))) = false := by decide
theorem test_wf_quant_planes : pushWf (.engine .stream (cmdOf (.quantize { quant0 with p := { params0 with out := .e4m3 }, layout := 2 }))) = false := by decide
theorem test_wf_quant_list : pushWf (.engine .stream (cmdOf (.quantize { quant0 with saffronCount := 1 }))) = false := by decide
theorem test_wf_split_format : pushWf (.engine .matrix (cmdOf (.product { product0 with a := .narrow { narrow0 with pieces := 2 } }))) = false := by decide
theorem test_wf_row_scales : pushWf (.engine .matrix (cmdOf (.product { product0 with a := .narrow { narrow0 with scaleFmt := .ue4m3 } }))) = false := by decide
theorem test_wf_stored_extent : pushWf (.engine .matrix (cmdOf (.product { product0 with a := .narrow { narrow0 with storedCols := 33 } }))) = false := by decide
theorem test_wf_accumulators : pushWf (.engine .matrix (cmdOf (.product { product0 with dst := op0 0 false }))) = false := by decide
theorem test_wf_anchor :
    pushWf (.engine .matrix (cmdOf (.exact exact0))) = true ∧ pushWf (.engine .matrix (cmdOf (.exact { exact0 with anchor := 512 }))) = false := by decide
theorem test_wf_long_registers : pushWf (.engine .matrix (cmdOf (.exact { exact0 with lr := { op0 0 false with space := .acc } }))) = false := by decide
theorem test_wf_side_pass : pushWf (.engine .matrix (cmdOf (.saffron product0))) = false := by decide
theorem test_wf_vector_sources : pushWf (.engine .vector (cmdOf (.vector { vector0 .add with srcs := [stream0 0] }))) = false := by decide
theorem test_wf_vector_ok : pushWf (.engine .vector (cmdOf (.vector (vector0 .fma)))) = true := by decide
theorem test_wf_vector_scales :
    pushWf (.engine .vector (cmdOf (.vector { vector0 .copy with srcs := [{ stream0 0 with fmt := .fp4 }] }))) = false ∧
    pushWf (.engine .vector (cmdOf (.vector { vector0 .copy with dst := { stream0 64 with fmt := .e4m3 } }))) = false := by decide
theorem test_wf_moments : pushWf (.update { update0 .apply with momentFmt := .e4m3 }) = false := by decide
theorem test_wf_residual :
    pushWf (.update (update0 .emitResidual)) = false ∧ pushWf (.update { update0 .emitResidual with enc := { params0 with out := .sw2 } }) = true := by decide
theorem test_wf_remote_posts : pushWf (.engine .stream { cmdOf .post with remote := List.replicate 5 (c1, ⟨0, 1⟩) }) = false := by decide
theorem test_wf_supplied_scale : pushWf (.engine .stream (cmdOf (.quantize { quant0 with p := { params0 with rowScale := .supplied } }))) = false := by decide
theorem test_wf_pieces : pushWf (.engine .matrix (cmdOf (.product { product0 with a := .narrow { narrow0 with pieces := 4 } }))) = false := by decide
theorem test_wf_block_k : pushWf (.engine .matrix (cmdOf (.product { product0 with a := .narrow { narrow0 with cols := 544 } }))) = false := by decide
theorem test_wf_block_n : pushWf (.engine .matrix (cmdOf (.product { product0 with b := .narrow { narrow0 with rows := 257 } }))) = false := by decide
theorem test_wf_vector_count : pushWf (.engine .vector (cmdOf (.vector { vector0 .copy with count := 16384 }))) = false := by decide
theorem test_wf_cache_destination :
    pushWf (.engine .vector (cmdOf (.vector { vector0 .copy with dst := { stream0 0 with op := { op0 0 false with space := .oc } } }))) = false := by decide
theorem test_wf_stack_read_local : pushWf (.engine .stream (cmdOf (.stackRead 0x8000000000000000 none (op0 0 false) 4))) = false := by decide
theorem test_wf_stack_write_local : pushWf (.engine .stream (cmdOf (.stackWrite (op0 0 false) 0x8000000000000000 none 4))) = false := by decide
theorem test_wf_remote_read : pushWf (.engine .stream (cmdOf (.remoteRead 0 (op0 0 false) 4))) = false := by decide
theorem test_wf_microtable : pushWf (.update { update0 .apply with micro := 8 }) = false := by decide
theorem test_wf_owned_range : pushWf (.update { update0 .apply with count := 33 }) = false := by decide
theorem test_wf_owned_rows : pushWf (.update { update0 .apply with rows := 3, count := 48 }) = false := by decide
theorem test_wf_update_waits : pushWf (.update { update0 .norm with waits := List.replicate 5 ⟨0, 1⟩ }) = false := by decide
theorem test_wf_update_posts : pushWf (.update { update0 .norm with posts := List.replicate 5 ⟨0, 1⟩ }) = false := by decide
theorem test_wf_planes : pushWf (.update { update0 .apply with copyLayout := 2, enc := { params0 with out := .e4m3 } }) = false := by decide
theorem test_wf_line_address : Instr.wf (.cacheLineFetchDone 4 (List.replicate 32768 0)) = false := by
  rw [show Instr.wf (.cacheLineFetchDone 4 (List.replicate 32768 0)) = (false && decide ((List.replicate 32768 (0 : Byte)).length = 32768)) from rfl]; rfl
theorem test_wf_line_length : Instr.wf (.cacheLineFetchDone 0 []) = false := by decide

def coll0 : CollSpec :=
  { num := 5, op := .transfer, wide := false, isMax := false, members := [0, 1], root := 0, src := 0, dst := 0, count := 1, bounds := [], posts := [],
    norm := false, mark := .none }

theorem test_wf_members : Instr.wf (.collectiveStart { spec := { coll0 with members := [] }, errs := noErrs }) = false := by decide

def flit0 : Flit :=
  { type := 1, vc := 0, first := true, last := true, seq := 0, ack := 0, dst := 0, src := 0, credVc := 0, credN := 0, len := 0, payload := [], crc := 0 }

theorem test_wf_flit : Instr.wf (.flitReceive 0 flit0 { slot := 0, ok := true }) = false := by decide
theorem test_wf_lanes : Instr.wf (.lanesLocked 0 5) = false := by decide

def msg0 : Msg :=
  { src := 1, hdr := { op := 0, version := 1, placeEpoch := 0, coll := 0, chunk := 0, length := 4, address := 0x10000000000, step := 7, srcRank := 1 },
    payload := [1, 2, 3, 4] }

theorem test_wf_message : Instr.wf (.msgWrite msg0) = true ∧ Instr.wf (.msgWrite { msg0 with payload := [1, 2, 3] }) = false := by decide
theorem test_wf_message_op : Instr.wf (.msgTokenPost msg0) = false := by decide
theorem test_wf_bar : Instr.wf (.violatingAccess { bar2 := false, offset := 2 ^ 24, width := 4, write := true, value := 0 }) = false := by decide
theorem test_wf_modules : Instr.wf (.ucieLinkReturn 0) = false := by decide
theorem test_wf_stripe : Instr.wf (.varnishRead 0 1536 noErrs) = false ∧ Instr.wf (.stripeRetire 0 1536) = false := by decide
theorem test_wf_busy : Instr.wf (.loadWindow [0, 0, 0]) = false := by decide
theorem test_wf_w1c : Instr.wf (.w1cClear 4 0) = false := by decide
theorem test_wf_write : Instr.wf (.registerWrite 4 8 0) = false ∧ Instr.wf (.registerWrite 4 4 0) = true ∧ Instr.wf (.registerWrite 0 2 0) = false := by decide
theorem test_wf_i3c : Instr.wf (.i3cPrivateRead 33) = false := by decide
theorem test_wf_bulk (f : BulkFrame) : Instr.wf (.ethMessage 0 { f with payload := List.replicate 8193 0 }) = false := by
  show decide ((List.replicate 8193 (0 : Byte)).length ≤ 8192) = false
  rw [List.length_replicate]; rfl

/-! ### The premises of the statements can be met -/

/-- The push of R27: with room, and with 32 commands waiting. -/
theorem test_push_room : canPush c0 stepping = true ∧ injecting (stepping.coreUnit c0) 7 stepping = false ∧ ((stepping.core c0).queue .stream).length < 32 := by decide

def full : State := stepping.modCore c0 (fun k => k.setQueue .stream (List.replicate 32 (queued .post)))

theorem test_push_full : canPush c0 full = true ∧ injecting (full.coreUnit c0) 7 full = false ∧ ((full.core c0).queue .stream).length = 32 := by decide

theorem test_push_resume :
    let s := stepping.modCore c0 (fun k => { k with stalled := some (.stream, cmdOf .post) })
    (s.core c0).stalled = some (.stream, cmdOf .post) ∧ ((s.core c0).queue .stream).length < 32 := by decide

/-- A wait for 2 of counter 3, which holds 1, and then 2. -/
def needy : QCmd := { queued .post with cmd := { cmdOf .post with waits := [⟨3, 1⟩, ⟨3, 1⟩] } }

theorem test_begin_waits :
    let s := waitingOn .stream needy (stepping.modCore c0 (fun k => { k with tokens := [(3, 1)] }))
    (s.core c0).run .stream = none ∧ (s.core c0).queue .stream = needy :: [] ∧ ¬ (∀ n : Fin 32, amountFor needy.cmd.waits n ≤ Token s c0 n) := by decide

theorem test_begin_holds :
    let s := waitingOn .stream needy (stepping.modCore c0 (fun k => { k with tokens := [(3, 2)] }))
    (s.core c0).run .stream = none ∧ (s.core c0).queue .stream = needy :: [] ∧ (∀ n : Fin 32, amountFor needy.cmd.waits n ≤ Token s c0 n) ∧ Unarmed s ∧
    ¬ Fetches needy.cmd := by
  refine ⟨by decide, by decide, by decide, by unfold Unarmed; decide, ?_⟩
  rintro ⟨_, _, _, h⟩
  exact Body.noConfusion h

/-- A stream write of a region read with the release mark, carried out. -/
def releasing (bad : List Nat) : Running := { runOf (.stackWrite (op0 2 true) 0 none 4) with done := true, badReads := bad }

theorem test_release (bad : List Nat) :
    let s := engaged .stream (releasing bad) (regioned 2 (some (.core c0 .stream)) stepping)
    (s.core c0).run .stream = some (releasing bad) ∧ (releasing bad).done = true ∧ (releasing bad).noop = false ∧ (releasing bad).refused = false ∧
    (nth (releasing bad).accesses 0 accNone).named c0 = some (c0, op0 2 true, false) ∧ (op0 2 true).release = true ∧ 0 ∉ (releasing bad).released ∧
    regionReleased c0 (releasing bad) c0 (op0 2 true) = false ∧
    (s.core c0).region .sp 0 = some { base := 0, size := 4096, epoch := 2, owner := some (.core c0 .stream) } ∧ 0x2012 ∉ (releasing bad).raised ∧
    s.mgmt.queue.length < 4096 := by
  refine ⟨rfl, rfl, rfl, rfl, rfl, rfl, by simp [releasing, runOf], rfl, rfl, by simp [releasing, runOf], (by decide : 0 < 4096)⟩

/-- A write check of a stream read: the region's epoch `n` and writer `w` against the epoch `m` that the operand names. -/
theorem test_write_check (n m : BitVec 16) (w : Option UnitRef) :
    let x : Checked := { s := regioned n w stepping, suppressed := [], badReads := [], seen := [] }
    let cmd := cmdOf (.stackRead 0 none (op0 m false) 4)
    (nth (bodyAccesses cmd (copyDesc 0)) 1 accNone).named c0 = some (c0, op0 m false, true) ∧
    (x.s.core c0).region .sp 0 = some { base := 0, size := 4096, epoch := n, owner := w } ∧ x.seen = [] ∧ quantizes cmd = false ∧
    x.s.mgmt.queue.length < 4096 := by
  refine ⟨rfl, rfl, rfl, rfl, (by decide : 0 < 4096)⟩

/-- The same of a command that quantizes, and that has raised nothing yet. -/
theorem test_write_check_quantizes :
    let s := engaged .stream (runOf (.quantize quant0)) stepping
    quantizes (cmdOf (.quantize quant0)) = true ∧ (s.core c0).run .stream = some (runOf (.quantize quant0)) ∧ (runOf (.quantize quant0)).q.tag = 0 ∧
    0x2010 ∉ (runOf (.quantize quant0)).raised ∧ 0x2013 ∉ (runOf (.quantize quant0)).raised := by
  refine ⟨rfl, rfl, rfl, by simp [runOf], by simp [runOf]⟩

theorem test_noop :
    let q : QCmd := { queued .post with cmd := { cmdOf .post with palCount := 0 } }
    isNoop c0 q.cmd none stepping = true ∧ isNoop c0 (cmdOf .post) none stepping = false ∧ descOf c0 q.cmd stepping = none := by decide

/-- A stack read into a region that no program declares is refused. -/
theorem test_refused :
    let cmd := cmdOf (.stackRead 0 none (op0 0 false) 4)
    isNoop c0 cmd none stepping = false ∧ refusals c0 cmd none stepping ≠ [] ∧ ¬ Fetches cmd ∧ stepping.mgmt.queue.length + 20 + 3 ≤ 4096 := by
  refine ⟨by decide, by decide, ?_, by decide⟩
  rintro ⟨_, _, _, h⟩
  exact Body.noConfusion h

theorem test_complete (m : Mark) :
    let q : QCmd := { queued (.vector (vector0 .add)) with cmd := { cmdOf (.vector (vector0 .add)) with mark := m, remote := [(c1, ⟨4, 2⟩)] } }
    let r : Running := { runOf .post with q := q, done := true }
    ((engaged .vector r stepping).core c0).run .vector = some r ∧ r.done = true ∧ (engaged .vector r stepping).placed c1 = true := by
  refine ⟨rfl, rfl, (by decide : stepping.placed c1 = true)⟩

theorem test_complete_update :
    let r : URunning := { urun .norm with done := true }
    ((stepping.setUU 0 { UnitSt.empty with running := some r }).uu 0).running = some r ∧ r.done = true := ⟨rfl, rfl⟩

theorem test_timeout :
    let s := waitingOn .stream needy stepping
    s.step = some stepNow ∧ bits (s.act Off.tokenTimeout) 0 32 ≠ 0 ∧ waiting (.command c0 .stream) s = some (0, s.coreUnit c0) ∧
    (waiting (.control c0 ⟨3, 1⟩) s).isSome = true ∧ (waiting (.updateSeq 0) (s.setUU 0 { UnitSt.empty with held := [uq .norm 1] })).isSome = true ∧
    (waiting (.updateSeq 0) (s.setUU 0 { UnitSt.empty with held := [uq .norm 2], running := some (urun .norm), next := 1 })).isSome = true := by decide

/-- 0x2016 at 65,535 + 1, and none at 65,534 + 1 (R34). -/
theorem test_token_saturates :
    let s (v : BitVec 16) : State := stepping.modCore c0 (fun k => { k with tokens := [(3, v)] })
    Token (postToken c0 3 1 0 (s 65535)) c0 3 = 65535 ∧ (postToken c0 3 1 0 (s 65535)).mgmt.queue.length = 1 ∧
    Token (postToken c0 3 1 0 (s 65534)) c0 3 = 65535 ∧ (postToken c0 3 1 0 (s 65534)).mgmt.queue.length = 0 := by decide

/-! Memory and the stream engine -/

/-- A stream command on core 0, beneath a declared region. -/
def streaming (b : Body) : State := engaged .stream (runOf b) (regioned 0 none stepping)

theorem unarmed_streaming (b : Body) : Unarmed (streaming b) := (by decide : bit (stepping.reg Off.injectCtl) 0 = false)

theorem test_stream_bodies :
    (∀ b, b = .stackRead 0 none (op0 0 false) 4 ∨ b = .stackWrite (op0 0 false) 0 none 4 ∨ b = .stackWrite (op0 0 false) 0x10000000000 (some (op0 0 false)) 4 ∨
      b = .copy (op0 0 false) { op0 0 false with space := .acc } 4 ∨
      b = .layout (.stack 0) none none ∨ b = .invalidate ∨ b = .quantize quant0 ∨ b = .remoteRead 0x8000000000000000 (op0 0 false) 4 →
      StreamBody (streaming b) c0 (runOf b) b) ∧
    suppressed (runOf .post) c0 (op0 0 false) = false ∧ destSuppressed (runOf .post) 0x10000000000 (some (op0 0 false)) = false ∧
    addrOf 0x10000000000 = .window c0 .sp 0 ∧ stepping.placed c0 = true ∧ (stepping.core c0).dropSeen = false :=
  ⟨fun b _ => ⟨rfl, rfl, rfl, unarmed_streaming b⟩, by decide, by decide, by decide, by decide, by decide⟩

/-- A core that is not placed, and a destination whose check failed. -/
theorem test_stream_drops :
    ({ stepping with program := none, rom := { stepping.rom with fused := (List.range 68).map (fun p => (0, p)) } }).placed c0 = false ∧
    destSuppressed { runOf .post with suppressed := [coreRegion c0 .sp 0] } 0x10000000000 (some (op0 0 false)) = true ∧
    suppressed { runOf .post with suppressed := [coreRegion c0 .sp 0] } c0 (op0 0 false) = true := by decide

/-- A write of three repetitions of 4 bytes each, 64 bytes apart. -/
def thrice : Running :=
  let q := queued (.stackWrite (op0 0 false) 0 none 4)
  { runOf .post with q := { q with cmd := { q.cmd with repeats := 3, strides := [4, 64] } } }

theorem test_repeated :
    runsOf thrice.q.cmd = 3 ∧ (∀ k < 3, addrOf (BitVec.ofNat 64 (Moved thrice k 1)) = .stack (Moved thrice k 1) ∧ Moved thrice k 1 % 4 = 0) ∧
    Apart (Moved thrice 1 1) (Moved thrice 2 1) 4 ∧ Moved thrice 2 0 = 8 := by unfold Apart; decide

theorem test_stack_address : bit (0 : Dword) 63 = false ∧ addrOf 0 = .stack 0 ∧ addrOf 131072 = .stack 131072 := by decide

/-- A word stored with bit 31 of 0x8000_0001 flipped (example of R299). -/
def struck : State :=
  let s := streaming (.stackRead 0 none (op0 0 false) 4)
  { s with mem := { s.mem with stack := [(0, codeword 0x80000001#32 ^^^ BitVec.ofNat 39 (2 ^ 31))] } }

theorem test_struck_word :
    StreamBody struck c0 (runOf (.stackRead 0 none (op0 0 false) 4)) (.stackRead 0 none (op0 0 false) 4) ∧ runsOf (cmdOf (.stackRead 0 none (op0 0 false) 4)) = 1 ∧
    (struck.entryFor c0.tile.val 0).state = .mapped ∧ physWord (struck.entryFor c0.tile.val 0).loc 0 = 0 ∧
    struck.stored 0 = codeword 0x80000001#32 ^^^ BitVec.ofNat 39 (2 ^ 31) ∧ (struck.mem.stack.filter (fun y => y.1 == 0)).length = 1 := by
  refine ⟨⟨rfl, rfl, rfl, rfl⟩, rfl, rfl, rfl, rfl, rfl⟩

/-- A read in a LOST stripe, and a piece whose path fails. -/
theorem test_lost_stripe :
    let s := (streaming (.stackRead 0 none (op0 0 false) 4)).setAllEntry 0 { state := .lost, loc := ⟨0, 0⟩, loc2 := none }
    StreamBody s c0 (runOf (.stackRead 0 none (op0 0 false) 4)) (.stackRead 0 none (op0 0 false) 4) ∧ (s.entryFor c0.tile.val 0).state = .lost ∧
    s.mgmt.queue.length < 4096 ∧ 0x100C ∉ (runOf .post).raised ∧ 0x1009 ∉ (runOf .post).raised ∧
    (stepping.entryFor 0 0).readable = true ∧ stepping.mem.stack = [] := by
  refine ⟨⟨rfl, rfl, rfl, unarmed_streaming (.stackRead 0 none (op0 0 false) 4)⟩, by decide, by decide, by decide, by decide, by decide, by decide⟩

/-- Check bits of the manual's example: 0x65 for 0x8000_0001, syndrome 0x62 when bit 31 flips, 0x1A poisoned (R298, R299). -/
theorem test_secded_example :
    (codeword 0x80000001#32).toNat / 2 ^ 32 = 0x65 ∧ (poisoned 0x80000001#32).toNat / 2 ^ 32 = 0x1A ∧
    eccRead (codeword 0x80000001#32 ^^^ BitVec.ofNat 39 (2 ^ 31)) = .corrected 0x80000001#32 ∧
    eccRead (codeword 0x80000001#32 ^^^ BitVec.ofNat 39 (2 ^ 31) ^^^ BitVec.ofNat 39 1) = .uncorrectable 0 0x65 := by decide

/-- The cache part in use, with a line on its way. -/
def caching : State :=
  { ready with job := [(Off.llrCtl, 3), (Off.llrSize, 0x0000020000000000)], mem := { Mem.reset with llrOn := true, fetching := [(0, 1)] },
               program := some { program0 with image := { image0 with marks := [.value] } } }

theorem test_cache_line : caching.cacheOn = true ∧ caching.mem.fetching.any (fun x => x.1 == 0) = true ∧ ∀ x ∈ caching.mem.lines, x.2.1 ≠ 0 := by
  refine ⟨by decide, by decide, fun x h => ?_⟩
  simp [caching, Mem.reset] at h

/-- A read of a remote address under way. -/
def remoteRead0 : RemoteRead := { cached := false, parts := [{ num := 0, addr := 0x8000000000000000, len := 4, got := [] }] }

theorem test_cache_invalidate :
    (streaming .invalidate).cores.any (fun x => x.2.remote.isSome) = false ∧
    ((streaming .invalidate).modCore c1 (fun k => { k with remote := some remoteRead0 })).cores.any (fun x => x.2.remote.isSome) = true := by decide

/-- A stream read of a remote address, with the cache part off and on. -/
theorem test_remote_read :
    let b : Body := .remoteRead 0x8000000000000000 (op0 0 false) 4
    readsRemote b = true ∧ ((streaming b).core c0).remote = none ∧ (streaming b).cacheOn = false ∧ remoteSpans (runOf b) = [(0x8000000000000000, 4)] ∧
    ({ streaming b with job := caching.job, mem := caching.mem, program := caching.program }).cacheOn = true := by decide

/-- A layout copy of one byte in the flat layout, from the stacks and from a remote address. -/
def copy0 : BitVec 512 := BitVec.ofNat 512 (1 + 131072 * 2 ^ 128 + 2 ^ 192)

def copying0 (far : Bool) : Running := { runOf (.layout (.stack 0) none none) with copy := if far then copy0 ||| BitVec.ofNat 512 (2 ^ 127) else copy0 }

theorem test_copy_source :
    bit (copyDesc (copying0 false).copy).src 63 = false ∧ bit (copyDesc (copying0 true).copy).src 63 = true ∧ remoteSpans (copying0 true) ≠ [] ∧
    (∀ x ∈ remoteSpans (copying0 true), 0 < x.2) ∧ addrOf (copyDesc (copying0 false).copy).dst = .stack 131072 ∧
    (∀ w ∈ (copyDesc copy0).writes (fun _ => 0), w.1 % 4 = 0 ∧ 131072 % stripeBytes + w.1 + w.2.length ≤ stripeBytes) := by decide +kernel

/-! Numbers, the quantizer and the matrix engine -/

/-- Codes at the ends of their ranges: E4M3 0x7E is 448, FP4 0x7 is 6, the smallest FP32 subnormal (R75, R77, R80). -/
theorem test_code_ends :
    Grid.e4m3.encode .rne 0 (.num false 448 0) = 0x7E ∧ Grid.fp4.encode .rne 0 (.num false 6 0) = 7 ∧ Grid.e5m2.encode .rne 0 (.num false 57344 0) = 0x7B ∧ Grid.fp32.encode .rne 0 (.num false 1 (-149)) = 1 ∧
    Grid.bf16.encode .rne 0 (.num true 1 0) = 0xBF80 := by decide

/-- Q = 6, r = 1, m = 6 gives 2^0; m = 7 gives 2^1; a tiny m is held at 2^-126 (R124). -/
theorem test_e8m0 : e8m0For 6 (1, 1) (6, 1) = 127 ∧ e8m0For 6 (1, 1) (7, 1) = 128 ∧ e8m0For 6 (1, 1) (1, 2 ^ 200) = 1 ∧ e8m0For 1 (1, 1) (2 ^ 130, 1) = 254 := by decide

/-- A quantizing command into its region, and one into the stacks. -/
theorem test_quantize :
    let s := streaming (.quantize quant0)
    runsOf (runOf (.quantize quant0)).q.cmd = 1 ∧
    (∀ l ∈ QuantRuns c0 (loadQuant c0 quant0 s) s, ∀ x, l.1 = some x → ∃ o, x = .region o ∧ suppressed (runOf (.quantize quant0)) c0 o = false) ∧
    (∃ ws, (QuantRuns c0 (loadQuant c0 { quant0 with elemDst := some (.stack 0) } s) s).head? = some (some (.stack 0), ws) ∧
      ∀ w ∈ ws, w.1 % 4 = 0 ∧ w.2.length % 4 = 0 ∧ w.1 + w.2.length ≤ stripeBytes) := by
  refine ⟨rfl, ?_, ⟨_, rfl, by decide +kernel⟩⟩
  intro l h x e
  have k : ∀ y : Option Loc, y ∈ (QuantRuns c0 (loadQuant c0 quant0 (streaming (.quantize quant0))) (streaming (.quantize quant0))).map (fun l => l.1) →
      y = some (.region { op0 0 false with offset := 1024 }) ∨ y = none := by
    intro y hy
    simp [QuantRuns, loadQuant, quant0, params0] at hy
    grind
  rcases k l.1 (List.mem_map.mpr ⟨l, h, rfl⟩) with g | g
  · rw [g] at e; cases e; exact ⟨_, rfl, by decide⟩
  · rw [g] at e; cases e

theorem unarmed_stepping : bit (stepping.reg Off.injectCtl) 0 = false := by decide

/-- The matrix engine of core 0 at work. -/
theorem test_matrix_bodies (p : ProductCmd) (q : ExactCmd) :
    MatrixBody (engaged .matrix (runOf (.product p)) (regioned 0 none stepping)) c0 (runOf (.product p)) (.product p) ∧
    MatrixBody (engaged .matrix (runOf (.saffron p)) (regioned 0 none stepping)) c0 (runOf (.saffron p)) (.saffron p) ∧
    MatrixBody (engaged .matrix (runOf (.exact q)) (regioned 0 none stepping)) c0 (runOf (.exact q)) (.exact q) :=
  ⟨⟨rfl, rfl, rfl, unarmed_stepping⟩, ⟨rfl, rfl, rfl, unarmed_stepping⟩, ⟨rfl, rfl, rfl, unarmed_stepping⟩⟩

theorem test_product_shape :
    let r := runOf (.product product0)
    let s := engaged .matrix r (regioned 0 none stepping)
    let z := prepareBoth c0 r product0.a product0.b false true (none, none) (beginReads c0 .matrix r noErrs 0 s)
    runsOf r.q.cmd = 1 ∧ suppressed r c0 product0.dst = false ∧ 4 * z.2.1.rows ≤ product0.dstStride ∧ z.1.rows = 1 ∧ z.2.1.rows = 1 := by decide

/-- An open block beneath an exact product. -/
def openBlock : ExactBlock := { region := 0, anchor := 0, two := false, oow := 0, dropped := false, terms := [] }

theorem test_exact_shape (closes : Bool) :
    let p := { exact0 with closes := closes }
    let r := runOf (.exact p)
    let s := (engaged .matrix r (regioned 0 none stepping)).modCore c0 (fun k => { k with blocks := [openBlock] })
    let z := prepareBoth c0 r p.a p.b false true (none, none) (beginReads c0 .matrix r noErrs 0 s)
    (s.core c0).block p.lr = some openBlock ∧ z.1.rows = 1 ∧ z.2.1.rows = 1 ∧ p.row0 + z.1.rows ≤ p.blockRows ∧ suppressed r c0 p.lr = false ∧
    suppressed r c0 p.dst = false ∧ 4 * (stationaryShape p.b p.colWise).1 ≤ p.dstStride := by
  cases closes <;> decide

/-- A tensor of ones read as an engine does: one row of 32 elements of one piece. -/
def ones : Narrow :=
  { fmt := .fp4, pieces := 1, rows := 1, cols := 32, group := 32, scaleFmt := .e8m0, rot := 0, code := fun _ _ _ => 2, scale := fun _ _ => 127,
    rowScale := fun _ => none, hasRowScale := false, addrScale := fun _ _ => 0, addrRow := fun _ => 0 }

/-- A hit of each kind under enabled checks. -/
def hit (k : Strike) : Hit := { up := { at_ := k, rep := 0, row := 0, pass := 0, piece := 0, index := 0, column := 0, mask := BitVec.ofNat 256 (2 ^ 3) }, injected := false }

theorem test_sum_hit :
    let r := runOf (.product product0)
    let s := engaged .matrix r stepping
    let passes := passesOf .passes 1 1 false 256
    (s.core c0).run .matrix = some r ∧ r.checks.testBit 0 = true ∧ 0x2040 ∉ r.raised ∧ (hit .sum).up.mask = BitVec.ofNat 256 (2 ^ 3) ∧ 3 < adderWidth .passes ∧
    passes[0]? = some [(0, 0)] ∧ (hit .sum).up.row < ones.rows ∧ (hit .sum).up.column < ones.rows ∧ ones.rows ≤ 256 ∧
    (∃ x, (rawSums ones ones .passes [(0, 0)] 0 0 0)[0]? = some x ∧ -2 ^ (adderWidth .passes - 1) ≤ x.1 ∧ x.1 < 2 ^ (adderWidth .passes - 1)) ∧ s.mgmt.queue.length < 4096 := by
  refine ⟨rfl, by decide, by decide, rfl, by decide, by decide, by decide, by decide, by decide, ⟨_, rfl, by decide, by decide⟩, by decide⟩

theorem test_result_hits :
    let r := runOf (.product product0)
    r.checks.testBit 1 = true ∧ 0x2041 ∉ r.raised ∧ (∀ k ∈ [Strike.combined, Strike.promoted, Strike.low], (hit k).up.at_ ∈ [Strike.combined, Strike.promoted, Strike.low]) ∧
    (1 : Int) % 3 ≠ 0 := by decide

/-! The vector engine -/

theorem test_vector_bodies (v : VectorCmd) : VectorBody (engaged .vector (runOf (.vector v)) (regioned 0 none stepping)) c0 (runOf (.vector v)) v :=
  ⟨rfl, rfl, rfl, unarmed_stepping⟩

/-- Rows of four elements, without and with scale codes in another memory. -/
theorem test_vector_rows :
    let v := vector0 .add
    let w : VectorCmd := { v with dst := { v.dst with fmt := .e4m3, scales := some { op0 0 false with space := .acc } } }
    let s := engaged .vector (runOf (.vector v)) (regioned 0 none stepping)
    (∀ i < 1, (rowBytes v (rowCodes v s i (vectorRow c0 v 1 s i)) (vectorRow c0 v 1 s i).index).length ≤ v.dst.rowStride) ∧
    (∀ i < 1, (rowBytes w (rowCodes w s i (vectorRow c0 w 1 s i)) (vectorRow c0 w 1 s i).index).length ≤ w.dst.rowStride) ∧
    v.dst.scales = none ∧ (∀ o, w.dst.scales = some o → o.space ≠ w.dst.op.space) ∧ suppressed (runOf (.vector v)) c0 v.dst.op = false := by
  refine ⟨by decide, by decide, rfl, fun o h => ?_, by decide⟩
  cases h
  decide

/-- +0 above −0, and NaN (R622). -/
theorem test_min_max : fmax 0x80000000#32 0 = 0 ∧ fmin 0 0x80000000#32 = 0x80000000#32 ∧ fmax 0x7FC00001#32 0 = nan32 := by decide

/-- The lower index wins among equal keys; a row of −∞ has no winner (R222, R223). -/
theorem test_draws :
    drawRow [(0x3F800000#32, 4), (0x40000000#32, 9), (0x40000000#32, 2)] = (0x40000000#32, 2, false, false) ∧
    drawRow [(0xFF800000#32, 4)] = (0xFF800000#32, 0xFFFFFFFF, false, true) ∧
    [(nan32, 1)].any (fun k : Word × Nat => isNan k.1) = true := by decide

/-- A kept sample of the neighbour and the check slot that re-executes it, once with the same bytes and once with others. -/
def sample (clean : List Byte) : Sample := { position := 3, written := [1, 2], clean := clean, phys := 1, valid := true, injected := false, extra := false }

def sampled (x : Sample) (s : State) : State := s.modCore (neighbour c0) (fun k => { k with samples := [x] })

theorem test_check_slot (l : List Byte) :
    let s := sampled (sample l) (engaged .vector (runOf (.checkSlot 3)) stepping)
    s.mgmt.traceOn = false ∧ s.mgmt.queue.length + 2 ≤ 4096 ∧ (s.core c0).run .vector = some (runOf (.checkSlot 3)) ∧
    (s.core (neighbour c0)).samples.find? (fun x => x.position == 3 && x.valid) = some (sample l) :=
  ⟨rfl, (by decide : 0 + 2 ≤ 4096), rfl, rfl⟩

/-- Firmware checks enabled at every command of its rate, on a core of a program that is not strict. -/
def checking : State := { stepping with active := [(Off.checkCtl, 0x1)], program := some { program0 with image := { image0 with cls := 1 } } }

theorem test_check_insert (l : List Byte) :
    let s := sampled (sample l) checking
    firmwareMay (sample l) s = true ∧ s.normLeft = false ∧ (s.core c0).run .vector = none ∧ s.placed c0 = true ∧
    (s.core (neighbour c0)).samples.find? (fun x => x.position == 3 && x.valid) = some (sample l) :=
  have h : (bit (checking.act Off.checkCtl) 0 && 3 % 2 ^ bits (checking.act Off.checkCtl) 1 4 == 0 && !false && true) = true := by decide
  ⟨h, rfl, rfl, rfl, rfl⟩

/-! Update units -/

theorem test_update_push : canPush c0 stepping = true ∧ injecting (stepping.coreUnit c0) 7 stepping = false := by decide

/-- A unit that holds the command whose number comes next, and one that holds only a later one. -/
theorem test_update_begins :
    let s := stepping.setUU 0 { UnitSt.empty with held := [uq .norm 0] }
    (s.uu 0).running = none ∧ nextUpdate (s.uu 0) = some (uq .norm 0) ∧ waitsHold (uq .norm 0).cmd.waits (s.core c0) = true := by decide

theorem test_update_held :
    let s := stepping.setUU 0 { UnitSt.empty with held := [uq .norm 1] }
    ∀ q ∈ (s.uu 0).held, q.repeated = false ∧ (s.uu 0).next < q.cmd.seq.toNat := by decide

theorem test_norm_phase :
    let s := updating .norm stepping
    (s.uu 0).running = some (urun .norm) ∧ (urun .norm).done = false ∧ (urun .norm).q.cmd.phase = .norm ∧ Unarmed s ∧ s.stepInvalid = false :=
  ⟨rfl, rfl, rfl, unarmed_stepping, rfl⟩

theorem test_norm_decision :
    let s := updating .apply stepping
    s.step = some stepNow ∧ stepNow.noUpdates = false ∧ stepNow.globalNorm = none ∧ finite64 0x3FF0000000000000 = true ∧ finite64 0x7FF0000000000000 = false ∧
    (s.uu 0).running = some (urun .apply) ∧ (s.uu 0).flags.testBit 0 = false ∧ s.program.any (fun p => p.image.abortNonfinite) = false ∧ s.mgmt.queue.length < 4096 ∧
    0x2060 ∉ (urun .apply).raised ∧ Sparse.wf (fun _ => CoreSt.empty) s.cores = true := by
  decide

/-- The step runs an image with one microtable, which takes the absolute value of the master. -/
def entry0 : MicroEntry := { op := .abs, dst := .w, x := .w, y := .w, z := .w }

def tabled : State := { stepping with program := some { program0 with image := { image0 with microtables := [[entry0]] } } }

theorem test_apply_runs :
    UnitRuns (updating .apply tabled) 0 (urun .apply) .apply ∧ microtable (updating .apply tabled) (urun .apply).q.cmd.micro = some [entry0] ∧
    fmtWidth (urun .apply).q.cmd.momentFmt / 8 * (urun .apply).q.cmd.count % 4 = 0 :=
  ⟨⟨rfl, rfl, rfl, by decide, unarmed_stepping⟩, rfl, rfl⟩

/-- A flip of bit 0 of what the first entry gives. -/
theorem test_apply_struck :
    (runMicro [entry0] (some (0, 1)) { g := 0, w := 0x3F800000, m1 := 0, m2 := 0, h := [], c := 0, t := 0, a := [] }).2 % 3 ≠ 0 ∧
    (urun .apply).raised = [] := ⟨by decide, rfl⟩

/-- A device whose unit 0 serves tile 0, and one where no other is left. -/
theorem test_last_unit :
    let s := updating .apply tabled
    let last := ((s.setUU 1 { UnitSt.empty with inService := false }).setUU 2 { UnitSt.empty with inService := false }).setUU 3 { UnitSt.empty with inService := false }
    s.server 0 = some 0 ∧ last.server 0 = some 0 ∧ (s.uu 1).inService = true ∧ (last.uu 1).inService = false ∧ (last.uu 2).inService = false ∧
    (last.uu 3).inService = false := by decide

/-- w = NaN keeps the parameter, w = 1.0 takes it (R256). -/
theorem test_apply_kept :
    let w (x : Word) : State := storeWord 0 0 x stepping
    (applyParam 0 (update0 .apply) [] 0x3F800000 none (w 0x7FC00000) 0).1.kept = true ∧
    (applyParam 0 (update0 .apply) [] 0x3F800000 none (w 0x3F800000) 0).1.kept = false := by decide

theorem test_emissions :
    UnitRuns (updating .emitBackward stepping) 0 (urun .emitBackward) .emitBackward ∧ UnitRuns (updating .emitResidual stepping) 0 (urun .emitResidual) .emitResidual :=
  ⟨⟨rfl, rfl, rfl, by decide, unarmed_stepping⟩, ⟨rfl, rfl, rfl, by decide, unarmed_stepping⟩⟩

theorem test_update_skipped :
    let s := { updating .apply stepping with step := some { stepNow with skipped := true } }
    (s.uu 0).running = some (urun .apply) ∧ updateOff 0 (urun .apply).q.cmd s = true := by decide

set_option maxRecDepth 20000 in
/-- min(1, τ / √S): τ = 1 and S = 4 give 1/2, S = 1/4 gives 1, and τ = 0 gives 1 (R252). -/
theorem test_clip_factor :
    clipFactor 0x3F800000 0x4010000000000000 = 0x3F000000 ∧ clipFactor 0x3F800000 0x3FD0000000000000 = 0x3F800000 ∧ clipFactor 0 0x4010000000000000 = 0x3F800000 := by
  decide

/-! Links -/

/-- `s` with a port in this state, with credits for every channel. -/
def linked (x : Link) (s : State) : State := s.setPort 5 { s.port 5 with link := x, inService := true, credits := [(0, 256), (1, 128), (2, 128), (3, 8)] }

def payload240 : List Byte := List.replicate 240 0

/-- A sequenced message flit with its CRC, and one whose CRC fails. -/
def goodFlit : Flit := sealFlit { flit0 with payload := payload240, len := 40 }

theorem test_flit_in_sequence :
    let s := linked .up ready
    (s.port 5).link = .up ∧ goodFlit.type ∈ [1#4, 2#4, 3#4] ∧ goodFlit.last = true ∧ goodFlit.seq = (s.port 5).rxNext := by decide

/-- A port that would send a control flit at once. -/
theorem test_port_ready : Ready (linked .up ready) 5 ∧ ¬ Carries ready 5 := by
  unfold Ready Carries
  decide

theorem test_flit_crc (f : Flit) : flitOk (sealFlit f) = true := by
  have h : flitBody (sealFlit f) = flitBody f := rfl
  rw [flitOk, h]
  exact beq_self_eq_true _

theorem test_flit_assembles : (assemble [goodFlit]).isSome = true ∧ (assemble [{ goodFlit with len := 31 }]).isNone = true := by decide

/-- A flit out of sequence, a port that holds a nack out, and flits of type 0 and of a reserved type. -/
theorem test_flit_discarded :
    let s := linked .discovery ready
    (s.port 5).link = .discovery ∧ { goodFlit with seq := 1 }.type ∈ [1#4, 2#4, 3#4] ∧ { goodFlit with seq := 1 }.seq ≠ (s.port 5).rxNext ∧
    ((s.setPort 5 { s.port 5 with nacked := true }).port 5).nacked = true ∧ { goodFlit with type := 9 }.type ∉ [0#4, 1#4, 2#4, 3#4] := by decide

/-- A port with one unacknowledged flit, sent 2 µs ago, before and after eight replays. -/
def unacked (k : Nat) : State :=
  let s := linked .up { ready with clock := { ready.clock with time := 2000 * 256 } }
  s.setPort 5 { s.port 5 with replay := [{ flit0 with seq := 3 }], sentAt := [0], fruitless := k }

theorem test_replay :
    ((unacked 0).port 5).link = .up ∧ ackedUp 2 ((unacked 0).port 5).replay = [{ flit0 with seq := 3 }] ∧ ackedUp 3 ((unacked 0).port 5).replay = [] ∧
    ((unacked 8).port 5).replay ≠ [] ∧ ((unacked 8).port 5).fruitless = 8 ∧ ((unacked 0).port 5).sentAt = [0] ∧
    longerThan 0 (timerUs 0 8 1 (unacked 0)) { unacked 0 with clock := { ready.clock with time := 10000000 } } = true ∧
    longerThan 0 (timerUs 0 8 1 ready) ready = false := by decide

/-- A port in each state of R403. -/
theorem test_port_states :
    (State.reset.port 5).link = .down ∧ ((linked .training ready).port 5).link = .training ∧ ((linked .failed ready).port 5).link = .failed ∧
    ((linked .training ready).port 5).waiting = [] ∧ ((linked .training ready).port 5).replay.length < 1024 := by decide

theorem test_plan_write : WriteTaken ready (slotWrite Off.planCtl 1) := ⟨by decide, by decide, by decide⟩

theorem test_plan_results :
    ready.mgmt.queue.length + 49 ≤ 4096 ∧ (planResult 0 ready).1 = 6 ∧ (planResult 0 { ready with regs := [(Off.plan 0, 0x8000000000000000)] }).1 ≠ 1 := by decide

theorem test_time_root :
    bit (ready.reg Off.timeCtl) 0 = false ∧ bit (({ ready with regs := [(Off.timeCtl, 1)] }).reg Off.timeCtl) 0 = true ∧ isTimePort 0 ready = true ∧ isTimePort 5 ready = false := by decide

/-! Messages and collectives -/

/-- A job of this device and device 1, placement epoch 0, with a step running. -/
def job : State := { stepping with fabric := { Fabric.reset with rankActive := [(0, 0), (1, 0)] } }

/-- `job` with a collective in flight. -/
def flying (k : CollSpec) : State :=
  { job with fabric := { job.fabric with colls := [{ spec := k, progress := 0, deadline := 0, extended := 0, chunks := [], done := 0 }] } }

theorem test_message_accepted :
    Accepts job msg0 ∧ addrOf msg0.hdr.address = .window c0 .sp 0 ∧ job.placed c0 = true ∧ msg0.payload.length ≤ spaceSize .sp ∧ msg0.payload ≠ [] ∧
    job.coll msg0.hdr.coll = none :=
  ⟨⟨by decide, by decide, by decide, by decide, by decide⟩, by decide, by decide, by decide, by decide, by decide⟩

/-- A message for a collective in flight, and one with the sum of the norms. -/
theorem test_message_counted :
    let m : Msg := { msg0 with hdr := { msg0.hdr with coll := 5 } }
    let k : CollSpec := { coll0 with op := .allReduce, norm := true, dst := 0x10000000000 }
    ((flying k).coll m.hdr.coll).isSome = true ∧ m.hdr.address = k.dst ∧ k.norm = true ∧ m.payload ≠ [] ∧ (flying k).fabric.accepted.contains (msgKey m) = false := by decide

/-- A write within a declared allocation of the stacks. -/
theorem test_message_to_stacks :
    let s := { ready with program := some { program0 with image := { image0 with allocations := [(0, 4096)] } } }
    inAllocation s 0 4 = true ∧ s.stackLegal 0 4 = true ∧ addrOf 0 = .stack 0 := by decide

/-- A duplicate, a message of another placement epoch, and one of an aborted collective. -/
theorem test_message_dropped :
    let s := { job with fabric := { job.fabric with accepted := [msgKey msg0] } }
    let old : Msg := { msg0 with hdr := { msg0.hdr with placeEpoch := 1 } }
    s.fabric.accepted.contains (msgKey msg0) = true ∧ job.fabric.accepted.contains (msgKey old) = false ∧ epochCurrent old job = false ∧
    job.fabric.dropEpoch ≠ job.rankEpoch job.deviceId ∧ ({ job with fabric := { job.fabric with aborted := [0] } }).fabric.aborted.contains msg0.hdr.coll = true ∧
    epochCurrent msg0 job = true ∧ msg0.hdr.op.toNat < 5 ∧ job.step.isSome = true := by decide

/-- A reduction of one FP32 element of core 0 to this rank, and an all-reduce with an element at the other. -/
def reduce0 : CollSpec := { coll0 with op := .reduce, src := 0x10000000000, dst := 0x10000000040 }

def part0 : Msg := { msg0 with hdr := { msg0.hdr with op := 1, coll := 5 } }

theorem test_partial :
    Accepts (flying reduce0) part0 ∧ Unarmed (flying reduce0) ∧ (flying reduce0).coll 5 = some { spec := reduce0, progress := 0, deadline := 0, extended := 0, chunks := [], done := 0 } ∧
    ownRank reduce0 (flying reduce0) = some 0 ∧ isReduction reduce0.op = true ∧ (part0.hdr.address - reduce0.src).toNat / collWidth reduce0 = 0 ∧
    part0.payload.length = collWidth reduce0 ∧ (homeRange reduce0 0).1 ≤ 0 ∧ 0 + 1 ≤ (homeRange reduce0 0).2 ∧ (homeRange reduce0 1).2 ≤ 0 ∨ 0 + 1 ≤ (homeRange reduce0 1).1 ∧
    addrOf reduce0.src = .window c0 .sp 0 ∧ addrOf reduce0.dst = .window c0 .sp 64 ∧ (flying reduce0).placed c0 = true :=
  .inl ⟨⟨by decide, by decide, by decide, by decide, by decide⟩, unarmed_stepping, by decide, by decide, by decide, by decide, by decide, by decide, by decide, by decide⟩

/-- The second element of an all-reduce of two, whose home is the other rank. -/
theorem test_partial_passes_on :
    let k : CollSpec := { reduce0 with op := .allReduce, count := 2 }
    isReduction k.op = true ∧ ownRank k (flying k) = some 0 ∧ (homeRange k 1).1 ≤ 1 ∧ 1 + 1 ≤ (homeRange k 1).2 ∧ (homeRange k 0).2 ≤ 1 ∧ (0 : Nat) ≠ 1 := by decide

/-- A request for 4 bytes, and the read that waits for the response. -/
theorem test_remote_request :
    let m : Msg := { msg0 with hdr := { msg0.hdr with op := 5 }, payload := [4, 0, 0, 0] }
    job.fabric.accepted.contains (msgKey m) = false ∧ epochCurrent m job = true ∧ byteField m.payload 0 4 = 4 ∧ Unarmed job :=
  ⟨by decide, by decide, by decide, unarmed_stepping⟩

def reading (b : Body) : State := (engaged .stream (runOf b) (regioned 0 none job)).modCore c0 (fun k => { k with remote := some remoteRead0 })

theorem test_remote_response :
    let s := reading (.remoteRead 0x8000000000000000 (op0 0 false) 4)
    s.fabric.accepted.contains (msgKey msg0) = false ∧ epochCurrent msg0 s = true ∧ s.mem.fetching = [] ∧
    allCores.find? (fun d => match (s.core d).remote with | some w => wants msg0.hdr.coll w | none => false) = some c0 ∧ (s.core c0).remote = some remoteRead0 ∧
    (s.core c0).run .stream = some (runOf (.remoteRead 0x8000000000000000 (op0 0 false) 4)) ∧
    ({ remoteRead0 with parts := remoteRead0.parts.map (fun p => { p with got := [(0, msg0.payload)] }) } : RemoteRead).complete = true ∧ remoteRead0.complete = false ∧
    suppressed (runOf (.remoteRead 0x8000000000000000 (op0 0 false) 4)) c0 (op0 0 false) = false := by decide +kernel

/-- A layout copy that waits for its remote source, and a line that is on its way. -/
theorem test_remote_copy_response :
    let s := engaged .stream (copying0 true) (reading .post)
    (s.core c0).run .stream = some (copying0 true) ∧ (copying0 true).done = false ∧ (s.core c0).remote = some remoteRead0 := by decide +kernel

theorem test_line_response :
    let m : Msg := { msg0 with hdr := { msg0.hdr with op := 6, coll := 1 } }
    caching.fabric.accepted.contains (msgKey m) = false ∧ caching.mem.fetching.find? (fun x => x.2 == m.hdr.coll) = some (0, 1) ∧ caching.mem.lines = [] ∧
    epochCurrent m { caching with fabric := job.fabric } = true := by decide

/-- An outstanding message on port 5, sent long ago, with ports 5 and 6 in service. -/
theorem test_ack_timeout :
    let s := (linked .up job).setPort 6 { job.port 6 with link := .up, inService := true }
    let o : Outstanding := { dst := 1, msg := msg0, port := 5, sentAt := 0 }
    let t := { s with fabric := { s.fabric with out := [o] }, clock := { s.clock with time := 2 ^ 40 } }
    t.fabric.out.find? (fun o => o.dst == 1 && o.msg.hdr.coll == 0 && o.msg.hdr.chunk == 0 && o.msg.hdr.step == 7 && longerThan o.sentAt (timerUs 48 16 200 t) t) = some o ∧
    longerThan o.sentAt (timerUs 48 16 200 s) s = false ∧ nextPort 5 t = some 6 ∧ nextPort 6 t = some 5 ∧ 2 ≤ t.inService.length := by decide

/-- Probes: a peer that has been silent, one with a probe out, before and after two that went unanswered. -/
theorem test_probes :
    let s := { linked .up job with clock := { job.clock with time := 2 ^ 40 } }
    let q (n : Nat) : State := s.setPeer { s.peer 1 with probed := some 0, unanswered := n }
    1 ∈ s.jobPeers ∧ (s.peer 1).lost = false ∧ (s.peer 1).probed = none ∧ (s.peer 1).heard.toNat + us (timerUs 8 8 10 s) ≤ s.now.toNat ∧
    ¬ ((job.peer 1).heard.toNat + us (timerUs 8 8 10 job) ≤ job.now.toNat) ∧ ((q 1).peer 1).probed = some 0 ∧ ((q 1).peer 1).unanswered < 2 ∧ us 20 ≤ (q 1).now.toNat ∧
    2 ≤ ((q 2).peer 1).unanswered ∧ ((q 2).peer 1).lost = false ∧ sharedWith 1 (q 2) = [] := by decide

/-- A beacon about a shared collective, and from outside the job. -/
theorem test_beacons :
    1 ∈ (flying coll0).jobPeers ∧ 2 ∉ (flying coll0).jobPeers ∧ coll0.num ∈ sharedWith 1 (flying coll0) ∧
    ((flying coll0).fabric.colls.filter (fun x => x.spec.num == coll0.num)).length = 1 ∧ ((flying coll0).reg (Off.fabCount + 32)).toNat + 1 < 2 ^ 64 := by decide

theorem test_beacon_extension :
    let c : Coll := { spec := coll0, progress := 0, deadline := 1000, extended := 0, chunks := [], done := 0 }
    c.extended ≤ 100 ∧ c.deadline.toNat + 100 < 2 ^ 64 ∧ (extendDeadline 1050 100 c).deadline = 1050 ∧ (extendDeadline 2000 100 c).deadline = 1100 := by decide

theorem test_aborts :
    let s := flying coll0
    s.step = some stepNow ∧ stepNow.globalNorm = none ∧ (s.coll 5).isSome = true ∧ 1 ∈ s.jobPeers ∧ stepNow.abortReasons = [] ∧ stepNow.number = 7 ∧ s.placed c0 = true := by decide

theorem test_abort_timer :
    let s := { flying coll0 with fabric := { (flying coll0).fabric with stopped := true, abortTimer := some 0 } }
    s.step = some stepNow ∧ s.fabric.stopped = true ∧ s.fabric.abortTimer = some 0 ∧ (0 : Dword).toNat ≤ s.now.toNat ∧ s.fabric.colls ≠ [] := by decide

theorem test_collective_starts :
    ownRank coll0 job = some 0 ∧ job.step.isSome = true ∧ job.fabric.aborted.contains coll0.num = false ∧ job.coll coll0.num = none ∧
    (∀ r < coll0.members.length, (job.peer (rankDev coll0 r job)).lost = false) ∧ (∀ x ∈ FirstMessages coll0 0 job, x.2.2.length ≤ 1048576) ∧ FirstMessages coll0 0 job ≠ [] ∧
    ownRank { coll0 with members := [1] } job = none ∧ ({ job with fabric := { job.fabric with aborted := [5] } }).fabric.aborted.contains coll0.num = true ∧
    ((job.setPeer { job.peer 1 with lost := true }).peer (rankDev coll0 1 job)).lost = true := by decide

/-- The sender of a transfer holds its whole target at once; a reduction to this rank does not. -/
theorem test_collective_target : ownRank coll0 (flying coll0) = some 0 ∧ collTarget coll0 0 = 0 ∧ collTarget reduce0 0 = 1 := by decide

theorem test_bucket :
    let b : Bucket := { blocks := [4], bytes := 0, coll := coll0 }
    let p := { program0 with image := { image0 with buckets := [b] } }
    p.image.buckets[stepNow.launched]? = some b ∧ ¬ (∀ x ∈ b.blocks, x ∈ stepNow.closed) ∧ ∀ x ∈ b.blocks, x ∈ { stepNow with closed := [4] }.closed := by decide

/-- 5 elements over 2 ranks: 0 to 3 and 3 to 5 (R414). -/
theorem test_homes : homeRange { coll0 with op := .allReduce, count := 5 } 0 = (0, 3) ∧ homeRange { coll0 with op := .allReduce, count := 5 } 1 = (3, 5) := by decide

/-! Ethernet and injections -/

def session0 : Session := { id := 9, port := 0, base := 0, len := 64, peer := 0, refusedIn := none }

def etherUp : State := { job with eth := { Eth.reset with up := [(0, true)], sessions := [session0] } }

def frame0 : BulkFrame :=
  { peer := 1, type := 1, session := 9, offset := 0, length := 4, seq := 0, crc := crc32c [1, 2, 3, 4], wellFormed := true, payload := [1, 2, 3, 4] }

theorem test_frame_write :
    etherUp.ethUp 0 = true ∧ sessionOf 0 frame0 etherUp = some session0 ∧ frameBad frame0 session0 = false ∧ frame0.offset.toNat + frame0.length.toNat ≤ session0.len.toNat ∧
    (etherUp.entry 0).state = .mapped := by decide

/-- One past the window's end, a READ_REQ and a MESSAGE. -/
theorem test_frames :
    let far := { frame0 with offset := 64 }
    let rd := { frame0 with type := 3, payload := [], crc := crc32c [] }
    let ms := { frame0 with type := 5 }
    sessionOf 0 far etherUp = some session0 ∧ frameBad far session0 = false ∧ session0.len.toNat < far.offset.toNat + far.length.toNat ∧
    sessionOf 0 rd etherUp = some session0 ∧ frameBad rd session0 = false ∧ sessionOf 0 ms etherUp = some session0 ∧ frameBad ms session0 = false ∧
    sessionOf 0 { frame0 with session := 8 } etherUp = none ∧ bit (etherUp.reg Off.injectCtl) 0 = false ∧ frameBad { frame0 with length := 5 } session0 = true ∧
    ({ frame0 with crc := 0 } : BulkFrame).crc ≠ crc32c frame0.payload := by decide +kernel

theorem test_ethernet_port :
    let s := { ready with job := [(Off.ethCtl 0, 1)] }
    bit (s.inJob (Off.ethCtl 0)) 0 = true ∧ s.mgmt.boot = .ready := by decide

theorem test_inject_writes :
    WriteTaken ready (slotWrite Off.fabInject 1) ∧ WriteTaken ready (slotWrite Off.injectCtl 1) ∧ mayInject ready = true ∧ mayInject stepping = false :=
  ⟨⟨by decide, by decide, by decide⟩, ⟨by decide, by decide, by decide⟩, by decide, by decide⟩

/-! The host interface -/

theorem test_ring_writes :
    WriteTaken ready (slotWrite (Off.sqCfg 0) 1) ∧ WriteTaken ready (slotWrite (Off.sqCfg 0) 0) ∧ WriteTaken ready (slotWrite (Off.cqCfg 15) 1) ∧
    WriteTaken ready (slotWrite (Off.cqCfg 15) 0) ∧ bit (ready.reg (Off.sqCfg 0)) 0 = false :=
  ⟨⟨by decide, by decide, by decide⟩, ⟨by decide, by decide, by decide⟩, ⟨by decide, by decide, by decide⟩, ⟨by decide, by decide, by decide⟩, by decide⟩

/-- Ring 0 enabled, of 16 slots, and its completion ring 0, too. -/
def ringed : State :=
  let s := (ready.setReg (Off.sqCfg 0) 0x0000001000010101).setReg (Off.cqCfg 0) 0x0000001000000001
  (s.setSq 0 { s.sq 0 with state := .enabled, version := 1, tail := 2 }).setCq 0 { s.cq 0 with enabled := true, phase := true }

theorem test_ring_enabled :
    bit (ringed.reg (Off.sqCfg 0)) 0 = true ∧ bit (ringed.reg (Off.cqCfg 0)) 0 = true ∧ ringed.sqEntries 0 = 16 ∧ ringed.cqEntries 0 = 16 ∧ entriesOk 16 = true ∧
    entriesOk 65536 = true ∧ entriesOk 24 = false ∧ entriesOk 8 = false := by decide

/-- Doorbells: 15 is the last value that a ring of 16 slots takes. -/
theorem test_bells :
    WriteTaken ringed (bellWrite 0 4 15) ∧ WriteTaken ringed (bellWrite 4 4 15) ∧ WriteTaken ringed (bellWrite 0 8 0x0000000F0000000F) ∧
    bellBad 15 16 = false ∧ bellBad 16 16 = true ∧ bellBad 0x00010001 16 = true :=
  ⟨⟨by decide, by decide, by decide⟩, ⟨by decide, by decide, by decide⟩, ⟨by decide, by decide, by decide⟩, by decide, by decide, by decide⟩

/-- The first 8 bytes of a descriptor of VERSION 1 and cookie 6, and a descriptor made of them and `rest` × 2^64. -/
def rawOf (op rest : Nat) : BitVec 512 := BitVec.ofNat 512 (op + 256 + 6 * 2 ^ 32 + rest * 2 ^ 64)

def descOf (op rest : Nat) : Desc := { raw := rawOf op rest, raw2 := 0, order := 0, head := 1, bad := false, begun := false }

/-- Ring 0 with this descriptor at its head. -/
def heading (d : Desc) (s : State) : State := s.setSq 0 { s.sq 0 with fetched := [d] }

theorem test_fetch :
    mayFetch 0 ringed = true ∧ outstandingSlots 0 ringed = 2 ∧ descBad 1 (rawOf 0 0) = false ∧ bits (rawOf 0 0) 0 8 ≠ 5 ∧
    descBad 1 (rawOf 2 0) = true ∧ bits (rawOf 2 0) 0 8 ≠ 1 ∧ mayFetch 0 ready = false ∧ (ringed.sq 0).fetched = [] ∧
    bits (rawOf 5 0) 0 8 = 5 ∧ descBad 1 (rawOf 5 0) = false := by decide +kernel

/-- An access that violates R448, each way, one that does not, and one in D3hot. -/
theorem test_violations :
    let a : BarAccess := { bar2 := false, offset := 0xFFFFF8, width := 8, write := false, value := 0 }
    violation a ready = some .unsupported ∧ violation { a with offset := Off.cap + 4 } ready = some .abort ∧
    violation { a with offset := Off.cap } ready = none ∧ ready.reachable = true ∧ ready.host.d3hot = false ∧
    ({ ready with host := { ready.host with d3hot := true } }).reachable = true := by decide

/-- A descriptor at the head, and one whose step runs. -/
theorem test_host_failure :
    (heading (descOf 4 0) ringed).linkUp = true ∧ ((heading (descOf 4 0) ringed).sq 0).fetched = [descOf 4 0] ∧ (descOf 4 0).bad = false ∧
    ({ descOf 3 0 with begun := true } : Desc).bad = false ∧ State.reset.linkUp = false := ⟨rfl, rfl, rfl, rfl, rfl⟩

theorem test_link :
    ready.host.modules = 2 ∧ ready.linkUp = true ∧ State.reset.linkUp = false ∧
    (let s := { ringed with host := { ringed.host with modules := 0 } }
     s.linkUp = false ∧ s.mgmt.boot = .ready ∧ (s.cq 0).enabled = true ∧ (s.cq 0).used + (s.cq 0).held.length ≤ s.cqEntries 0) ∧
    ((ringed.setCq 0 { ringed.cq 0 with since := 1 }).cq 0).since ≠ 0 := by decide

theorem test_sanitize_begins :
    readyHead 0 8 (heading (descOf 8 0) ringed) = some (descOf 8 0) ∧ ready.reachable = true ∧ ready.host.sanitizing = none ∧ ready.host.d3hot = false := by decide +kernel

theorem test_sanitize_ends :
    let s := { ready with host := { ready.host with sanitizing := some .flr } }
    s.host.sanitizing = some .flr ∧ s.step = none ∧ stackStopped s = false := by decide

theorem test_sanitize_waits :
    let s := { stepping with host := { stepping.host with sanitizing := some (.ring 0) } }
    s.step.isSome = true ∧ stackStopped { s with power := { s.power with stackTherms := [(3, { temp := 0, max := 0, state := 2 })] } } = true := by decide

/-! Descriptors -/

/-- Each opcode at the head of ring 0. -/
theorem test_heads :
    [0, 1, 2, 3, 4, 5, 6, 7, 8, 9, 10, 11, 12, 13].all (fun op => readyHead 0 op (heading (descOf op 0) ringed) == some (descOf op 0)) = true := by decide +kernel

/-- A program 1 that a descriptor names in its first field, and another that it does not. -/
theorem test_named_program :
    let s := { heading (descOf 2 1) ringed with program := some program0 }
    namedProgram (descOf 2 1) s = some program0 ∧ namedProgram (descOf 2 2) s = none ∧ s.step = none := by decide +kernel

/-- `ringed` with a scratch part of 64 stripes at stripe 0. -/
def scratched : State := { ringed with job := [(Off.llrCtl, 1), (Off.llrSize, 64)], mem := { Mem.reset with llrOn := true } }

/-- A window inside the scratch part, one outside it, and one of length 0. -/
theorem test_session_windows :
    (scratched.inCapacity 0 64 && scratched.inScratch 0 64) = true ∧ (scratched.inCapacity (2 ^ 30) 64 && scratched.inScratch (2 ^ 30) 64) = false ∧
    bits (rawOf 9 (3 + 64 * 2 ^ 128)) 192 64 = 64 ∧ bits (rawOf 9 3) 192 64 = 0 := by decide +kernel

theorem test_message_buffer : bits (rawOf 11 (8224 * 2 ^ 64)) 128 32 = 8224 ∧ bits (rawOf 11 (8223 * 2 ^ 64)) 128 32 = 8223 := by decide +kernel

theorem test_rank_table (bs : List Byte) (h : bs.length = 8) :
    ringed.frozen = false ∧ ringed.mgmt.refilling = false ∧ 0 < bits (rawOf 12 (2 ^ 64)) 128 32 ∧ bs.length = 8 * bits (rawOf 12 (2 ^ 64)) 128 32 := by
  have e : bits (rawOf 12 (2 ^ 64)) 128 32 = 1 := by decide +kernel
  rw [e]
  exact ⟨by decide, rfl, by decide, h⟩

theorem test_abort_step : bits (rawOf 13 (7 * 2 ^ 32)) 96 32 = stepNow.number.toNat := by decide +kernel

/-- A TRANSFER of 4 bytes into the scratch part and out of it. -/
theorem test_transfer :
    hostRange 0 4 scratched = true ∧ scratched.inScratch 0 4 = true ∧ bits (rawOf 4 (4 * 2 ^ 128)) 192 32 = 4 ∧ bit (rawOf 4 (4 * 2 ^ 128)) 224 = false ∧
    bit (rawOf 4 ((4 + 2 ^ 32) * 2 ^ 128)) 224 = true ∧ hostRange 2 4 scratched = false := by decide +kernel

theorem test_copy_counts :
    (copyDesc copy0).zero = false ∧ (copyDesc copy0).dst = 131072 ∧ (copyDesc 0).zero = true ∧ (copyDesc copy0).reservedSet = false ∧
    (copyDesc (copy0 ||| BitVec.ofNat 512 (2 ^ 24))).reservedSet = true := by decide +kernel

/-- A host copy that is carried out, one with a zero destination stride, and one whose source lies beyond the capacity. -/
theorem test_host_copy :
    let k := copyDesc copy0
    let z := copyDesc (copy0 ||| BitVec.ofNat 512 (2 ^ 20 + 2 ^ 209))
    copyRefusals false none none k ringed = [] ∧ ringed.inCapacity 0 1 = true ∧ ringed.inCapacity 131072 1 = true ∧ copyRefusals false none none z ringed ≠ [] ∧
    ringed.inCapacity (2 ^ 37) 1 = false ∧ (ringed.entryFor 0 1).state = .mapped ∧ bit (ringed.reg Off.injectCtl) 0 = false := by decide +kernel

/-- A part of 16 bytes of a checkpoint of a loaded program, and a restored one of another shape. -/
theorem test_checkpoint :
    let d := descOf 7 (16 * 2 ^ 128)
    let s := { heading d scratched with program := some program0 }
    readyHead 0 7 s = some d ∧ s.step = none ∧ (ckptFields d).2.2.1 = 16 ∧ ckptAddrOk false d s = true ∧ (ckptFields d).2.2.2 = false ∧
    BitVec.ofNat 64 (bits d.raw 256 64) ≠ s.shape ∧ BitVec.ofNat 64 (bits (rawOf 7 (s.shape.toNat * 2 ^ 192)) 256 64) = s.shape := by decide +kernel

/-- An image that passes its checks, one of the wrong MAJOR and one with a mark that its class forbids. -/
theorem test_image_checks :
    let i := { image0 with shape := ready.shape }
    imageRefusal i ready = none ∧ imageRefusal { i with major := 2 } ready = some (0x13, 0x4031) ∧ imageRefusal { i with shape := 0 } ready = some (0x14, 0x4030) ∧
    imageRefusal { i with marks := [.timing] } ready = some (0x13, 0x4032) ∧ imageRefusal { i with allocations := [(0, 0)] } ready = some (0x13, 0x4033) := by decide

theorem test_run_step :
    let d := descOf 3 1
    let s := { heading d ringed with program := some program0 }
    readyHead 0 3 s = some d ∧ s.step = none ∧ s.confirming = false ∧ earlierStep d s = false ∧ namedProgram d s = some program0 ∧ stepOrderOk 0 s = true ∧
    stepOrderOk 9 { s with last := some { number := 7, applied := true, ended := true } } = false := by decide +kernel

theorem test_launch :
    let p := { program0 with launch := some 5, begun := false }
    ({ ready with program := some p }).program = some p ∧ p.launch = some 5 ∧ p.begun = false ∧ ready.now = 0 ∧
    (5 : Dword).toNat ≤ ({ ready with clock := { ready.clock with time := 2000 } } : State).now.toNat := by decide

/-! Steps, reliability and the log -/

theorem test_step_ends : stepping.step = some stepNow ∧ allIdle stepping = true ∧ allIdle (streaming .invalidate) = false ∧ stepping.host.sanitizing = none := by decide

/-- The RUN_STEP of the step at the head of its ring. -/
theorem test_step_head :
    let d := { descOf 3 1 with begun := true }
    let s := heading d stepping
    s.step = some stepNow ∧ allIdle s = true ∧ (s.sq stepNow.ring.val).fetched = [d] ∧ d.op = 3 := by decide +kernel

/-- The status of a step that was skipped, and of one without a fault (R489). -/
theorem test_step_status : (stepStatus stepNow { ready with program := none }).1 = 0 ∧ (stepStatus { stepNow with causes := [(1, 4)] } { ready with program := none }) = (1, 4) := by decide

def open0 : Unclassified := { code := 0x2040, unit := unitCore 0 0, seq := 1, steps := 16, vary := false, injected := false, permanent := false }

theorem test_history :
    let s := { ready with unclassified := [open0] }
    s.unclassified.find? (fun x => x.seq == open0.seq) = some open0 ∧ s.dealmeg = true ∧ 16 ≤ open0.steps ∧ historyCount open0 s = 0 ∧ bits open0.unit 12 4 = 1 ∧
    spared true s = true ∧ spared false s = false := by decide

/-- Two records of the unit in the ring before it. -/
theorem test_history_permanent :
    let r (n : Word) : Record := recordOf { code := 0x2040, unit := unitCore 0 0 } { ready with mram := { Mram.fresh with nextSeq := n } }
    let s := { ready with unclassified := [{ open0 with seq := 2 }], mram := { Mram.fresh with ring := [(0, some (r 0)), (1, some (r 1))] } }
    historyCount { open0 with seq := 2 } s = 2 ∧ s.due.any (Due.removes 0 0) = false := by decide +kernel

/-- An open fault of the step that is replayed now. -/
theorem test_recurs :
    let s := { stepping with step := some { stepNow with replay := true }, unclassified := [{ open0 with steps := 0 }] }
    s.recurs 0x2040 (unitCore 0 0) = true ∧ disposition 0x2040 = .silent ∧ bits (unitCore 0 0) 12 4 = 1 ∧ spared false s = false ∧ s.due.any (Due.removes 0 0) = false := by
  decide

/-- The spare 64 of tile 0 under its confirmation test, for the logical core 3 on core 3. -/
theorem test_confirmation :
    let s := { ready with active := [(Off.iftCtl, 0)], confirm := [(0, some (.spare 3 3 64 9 false false))] }
    s.confirmOf 0 = some (.spare 3 3 64 9 false false) ∧ (64 : Nat) ≠ 3 ∧ s.mgmt.queue.length < 4096 ∧ (∀ x ∈ s.due, x.tile ≠ 0) ∧ iftOn s = false :=
  ⟨by decide, by decide, by decide, fun x h => absurd h List.not_mem_nil, by decide⟩

/-- The two cores of a recurring mismatch, one and then the other under test. -/
theorem test_suspects :
    let s (l : List Nat) : State := { ready with confirm := [(0, some (.suspects l [] 1 9 true))] }
    (s [0, 1]).confirmOf 0 = some (.suspects [0, 1] [] 1 9 true) ∧ (s [1]).confirmOf 0 = some (.suspects [1] [] 1 9 true) ∧ ((s [1]).ph 0 1).logical = some 1 ∧
    ((s [1]).ph 0 1).state = .active ∧ (s [1]).freeSpare 0 = some 64 := by decide

/-- The turns of tile 0: core 0 first, then core 1 once an hour's share of its 68 cores has passed. -/
theorem test_ift_turns :
    let s := { ready with active := [(Off.iftCtl, 1)] }
    let t := { s with turns := [(0, some (0, 0))] }
    iftOn s = true ∧ nextTurn 0 s = some 0 ∧ turnReached 0 s = true ∧ (s.ph 0 0).due = false ∧ nextTurn 0 t = some 1 ∧ turnReached 0 t = false ∧
    turnReached 0 { t with clock := { t.clock with time := 2 ^ 45 } } = true := by decide

/-- A spare under test with 20 segments left, none of them retried, one whose segment has failed once, and a working core whose work a spare carries. -/
theorem test_ift_segments :
    let x (k : Bool) (q : Option Nat) : PhysCore :=
      { state := .underTest, logical := none, segsLeft := 20, due := true, retried := k, waiting := false, spare := q, last := none }
    let s := ready.setPh 0 64 (x true none)
    ((ready.setPh 0 64 (x false none)).ph 0 64) = x false none ∧ (s.ph 0 64).state = .underTest ∧ 0 < (s.ph 0 64).segsLeft ∧ (s.ph 0 64).retried = true ∧
    (s.ph 0 64).spare = none ∧ isConfirming 0 64 s = false ∧ ((ready.setPh 0 3 (x true (some 64))).ph 0 3).spare.isSome = true ∧ s.due.any (Due.removes 0 3) = false := by
  decide

/-- A pinned record, another, and a loss. -/
theorem test_log :
    let r (k : Code) : Record := recordOf { code := k, unit := 0 } ready
    isPinned (r 0x1003) = true ∧ isPinned (r 0x0013) = false ∧ ready.mram.pinnedUsed < 65536 ∧ ready.dealmeg = true ∧ ready.mgmt.drainStopped = false ∧
    ({ ready with mgmt := { ready.mgmt with queue := [r 0x1003] } }).mgmt.lost = 0 ∧ 0 < ({ ready with mgmt := { ready.mgmt with lost := 3 } }).mgmt.lost := by decide

/-- CRC-16/CCITT-FALSE of "123456789" (R352), CRC-32 and CRC-32C of the same (R395, R438). -/
theorem test_crcs :
    crc16 [0x31, 0x32, 0x33, 0x34, 0x35, 0x36, 0x37, 0x38, 0x39] = 0x29B1 ∧ crc32 [0x31, 0x32, 0x33, 0x34, 0x35, 0x36, 0x37, 0x38, 0x39] = 0xCBF43926 ∧
    crc32c [0x31, 0x32, 0x33, 0x34, 0x35, 0x36, 0x37, 0x38, 0x39] = 0xE3069283 := by decide +kernel

/-! Live repair -/

theorem test_varnish :
    let s := { ready with active := [(Off.varnishCtl, 1)] }
    (s.ownerOf ⟨5, 9⟩).isSome = true ∧ bit (s.act Off.varnishCtl) 0 = true ∧ (s.chan 5).state ≠ .repairing ∧ (s.chan 5).state ≠ .dead ∧
    physWord ⟨5, 9⟩ 0 ≤ physWord ⟨5, 9⟩ 32767 ∧ physWord ⟨5, 9⟩ 32767 < physWord ⟨5, 9⟩ 0 + 32768 := by decide

/-- A mapped stripe and a FREE reserve stripe that have earned retirement. -/
theorem test_retire :
    let s := { ready with mem := { Mem.reset with toRetire := [⟨5, 9⟩, ⟨5, 1488⟩] } }
    (⟨5, 9⟩ : Phys) ∈ s.mem.toRetire ∧ (⟨5, 10⟩ : Phys) ∉ s.mem.toRetire ∧ s.ownerOf ⟨5, 9⟩ = some 3461 ∧ (s.entry 3461).state = .mapped ∧
    s.ownerOf ⟨5, 1488⟩ = some 571397 ∧ (s.entry 571397).state = .free ∧ Relocates (s.chan 5) ∧ retiredStripe ⟨5, 9⟩ s = false ∧
    retiredStripe ⟨5, 9⟩ { s with mram := { Mram.fresh with retirement := [.stripe 5 9] } } = true :=
  ⟨by decide, by decide, by decide, by decide, by decide, by decide, Or.inl rfl, by decide, by decide⟩

theorem test_ce_window : Sparse.wf chanReset ready.mem.channels = true := by decide

/-- A channel over its limit of correctable errors, and one below it. -/
theorem test_over_limit :
    let s := { ready with active := [(Off.ceLimit, 4)], mem := { Mem.reset with channels := [(5, { chanReset 5 with ceNow := 4 })] } }
    Relocates (s.chan 5) ∧ overLimit (s.chan 5) s = true ∧ overLimit (s.chan 6) s = false := ⟨Or.inl rfl, by decide, by decide⟩

theorem test_relocation_starts :
    let s := { ready with mem := { Mem.reset with repairs := [.stripe 3461 ⟨5, 9⟩] } }
    mayStart s = true ∧ s.mem.repairs = .stripe 3461 ⟨5, 9⟩ :: [] ∧ (s.entry 3461).state = .mapped ∧ (s.entry 3461).loc = ⟨5, 9⟩ ∧ s.takeReserve none = some 0 := by decide +kernel

theorem foldl_min_of_le (y : Nat) (l : List Nat) (h : ∀ x ∈ l, y ≤ x) :
    l.foldl (fun m x => match m with | none => some x | some y => some (min x y)) (some y) = some y := by
  induction l with
  | nil => rfl
  | cons x l ih =>
    have e : min x y = y := Nat.min_eq_right (h x List.mem_cons_self)
    simp only [List.foldl_cons, e]
    exact ih fun z hz => h z (List.mem_cons_of_mem x hz)

theorem least_cons (y : Nat) (l : List Nat) (h : ∀ x ∈ l, y ≤ x) : least (y :: l) = some y := foldl_min_of_le y l h

/-- The stripes of channel 5 when it is emptied: its lowest first, to a reserve entry of another channel. -/
def emptying : State := ({ ready with mem := { Mem.reset with repairs := [.mapOut 5] } }).setChan 5 { chanReset 5 with state := .repairing }

theorem test_map_out_starts :
    mayStart emptying = true ∧ emptying.mem.repairs = .mapOut 5 :: [] ∧ (emptying.entry 5).state = .mapped ∧ (emptying.entry 5).loc = ⟨5, 0⟩ ∧
    emptying.takeReserve (some 5) = some 0 := by decide +kernel

theorem logicalOn_of_plain_map (s : State) (q : Nat) (h : s.mem.map = []) :
    s.logicalOn q (fun x => x == .mapped) = q :: (List.range 1487).map (fun i => 384 * (i + 1) + q) := by
  simp [State.logicalOn, h, List.range_succ_eq_map (n := 1487), Function.comp_def]

theorem test_map_out_least : least (emptying.logicalOn 5 (fun x => x == .mapped)) = some 5 := by
  rw [logicalOn_of_plain_map emptying 5 rfl]
  generalize List.range 1487 = l
  refine least_cons 5 _ fun x h => ?_
  obtain ⟨i, -, e⟩ := List.mem_map.1 h
  omega

theorem look_map {α : Type} (d f : Nat → α) (l : List Nat) (q : Nat) (h : q ∈ l) : Sparse.look d (l.map fun k => (k, f k)) q = f q := by
  induction l with
  | nil => simp at h
  | cons x l ih =>
    by_cases e : x = q
    · subst e; simp [Sparse.look]
    · simp only [List.map_cons, Sparse.look, if_neg e]
      exact ih (by simpa [Ne.symm e] using h)

/-- With every channel degraded no reserve entry may be used. -/
def exhausted : State :=
  { ready with mem := { Mem.reset with repairs := [.stripe 3461 ⟨5, 9⟩], channels := (List.range 384).map (fun q => (q, { chanReset q with state := .degraded })) } }

theorem test_no_reserve : exhausted.takeReserve none = none ∧ mayStart exhausted = true ∧ exhausted.mem.exhausted = false := by
  have h (q : Nat) (hq : q < 384) : (exhausted.chan q).state = .degraded :=
    congrArg Channel.state (look_map chanReset (fun q => { chanReset q with state := .degraded }) (List.range 384) q (List.mem_range.2 hq))
  have e (r : Nat) : (exhausted.entry (reserve0 + r)).loc.q < 384 := by
    show (mapReset (reserve0 + r)).loc.q < 384
    unfold mapReset
    split <;> exact Nat.mod_lt _ (by decide)
  refine ⟨List.find?_eq_none.2 fun r _ => ?_, rfl, rfl⟩
  simp [h _ (e r)]

/-- A relocation in each stage. -/
theorem test_relocation_stages :
    let x (g : RelocStage) : Reloc := { entry := 3461, src := ⟨5, 9⟩, dst := ⟨0, 1488⟩, reserve := 571392, stage := g, mapOut := false }
    ∀ g, ({ ready with mem := { Mem.reset with relocs := [x g] } }).mem.relocs = [x g] ∧ (x g).src ≠ (x g).dst ∧ (x g).src.i < 1536 ∧ (x g).dst.i < 1536 ∧
      (x g).entry ≠ (x g).reserve ∧ Memory.wf ready.mem.stack = true := by
  intro x g
  exact ⟨rfl, by simp [x], by simp [x], by simp [x], by simp [x], by decide⟩

/-- A relocation under way onto channel 0 when that channel dies, and one from channel 5. -/
theorem test_relocation_dies :
    let x : Reloc := { entry := 3461, src := ⟨5, 9⟩, dst := ⟨0, 1488⟩, reserve := 571392, stage := .copying, mapOut := false }
    let s := { ready with mem := { Mem.reset with relocs := [x] } }
    s.mem.relocs = [x] ∧ x.stage ≠ .draining ∧ x.dst.q = 0 ∧ x.src.q = 5 ∧ x.entry < 571392 ∧ (s.chan 0).state ≠ .dead ∧ (s.chan 5).state ≠ .dead := by decide

theorem test_channel_dies : (ready.chan 5).state ≠ .dead ∧ ready.mem.relocs = [] ∧ (ready.entry 3461).loc.q = 5 ∧ (ready.entry 571397).state = .free := by decide +kernel

/-! Power, start-up and management -/

/-- A module that is off, one that ramps, one in reset and one that is on. -/
theorem test_power_states :
    let s (b : Boot) : State := { State.reset with mgmt := { Mgmt.reset with boot := b }, pins := { Pins.reset with enable := false } }
    (s .off).pins.enable = false ∧ (s .off).mgmt.boot = .off ∧ (s .off).pins.input = true ∧ State.reset.mgmt.boot = .atReset ∧ State.reset.pins.resetN = true ∧
    ready.mgmt.boot ≠ .off ∧ firmwareUp ready = true ∧ firmwareUp State.reset = false := by decide

theorem test_reset_write : WriteTaken ready (slotWrite Off.mgtReset 0xA5C3) := ⟨by decide, by decide, by decide⟩

/-- A slot with nothing in it is refused at the first try and at the second. -/
theorem test_boot_refused :
    let s := { State.reset with mgmt := { Mgmt.reset with boot := .rom } }
    s.mgmt.boot = .rom ∧ imageFault s.bootSlot s.rom = some 0x6001 ∧ s.mgmt.tried = false := by decide

/-- Below the cap, and above 97 % of it. -/
theorem test_limiter :
    let s := { ready with active := [(Off.pwrCap, 1000)] }
    s.powered = true ∧ s.cap = 1000 ∧ 97 * s.cap < 100 * 980 ∧ 100 * 900 < 94 * s.cap ∧ 100 * 950 ≤ 97 * s.cap ∧ 94 * s.cap ≤ 100 * 950 := by decide

theorem test_governor : ready.dealmeg = true ∧ ready.power.chosen = false ∧ ready.step = none ∧ stepping.step.isSome = true := by decide

/-- 96 °C and 106 °C in 1/16 °C. -/
theorem test_temperatures :
    hotter 1536 95 = true ∧ hotter 1520 95 = false ∧ hotter 1696 105 = true ∧ hotter 1616 100 = true ∧ cooler 1439 90 = true ∧ cooler 1440 90 = false ∧ cooler 1519 95 = true ∧
    cooler 1599 100 = true ∧ (ready.stackT 3).state = 0 ∧ (ready.tileT 1).state = 0 ∧ ready.powered = true := by decide

/-- A stack in its first response, and one that is stopped with no other. -/
theorem test_thermal_clear :
    let s (k : Nat) : State := { ready with power := { ready.power with stackTherms := [(3, { temp := 0, max := 0, state := k })], tiles := [(1, { temp := 0, max := 0, state := 1 })] } }
    ((s 1).stackT 3).state = 1 ∧ ((s 2).stackT 3).state = 2 ∧ ((s 2).tileT 1).state ≠ 0 ∧ ∀ j < 24, j ≠ 3 → ((s 2).stackT j).state ≠ 2 := by decide

/-- The floor ratio of 10^9 products at 500 fJ each 1,024 (R548). -/
theorem test_floor : ¬ ((1000000000 : Nat) < 1000000000) ∧ (999999999 : Nat) < 1000000000 := by decide

theorem test_calibration (v : Nat) :
    let s := setSetting 0x9000 0 1 v ready
    s.dealmeg = true ∧ s.setting 0x9000 0 1 = v ∧ s.mgmt.boot = .ready :=
  ⟨(by decide : ready.dealmeg = true), rfl, rfl⟩

/-- A monitor of the temperature of core 0, enabled. -/
theorem test_monitor :
    let cfg : Dword := 0x00801000
    let s := { ready with regs := [(Off.monCfg 0, cfg)] }
    bit (s.reg (Off.monCfg 0)) 23 = true ∧ carries (bits cfg 16 4) (bits cfg 20 3) (BitVec.ofNat 16 (bits cfg 0 16)) = true := by decide

theorem test_management_writes :
    WriteTaken ready (slotWrite (Off.monCfg 63) 0x20000000) ∧ WriteTaken ready (slotWrite Off.fwCtl 1) ∧ WriteTaken ready (slotWrite Off.fwCtl 2) ∧
    WriteTaken ready (slotWrite Off.attCtl 1) ∧ WriteTaken ready (slotWrite Off.turnCtl 1) ∧ WriteTaken ready (slotWrite Off.turnCtl 0) :=
  ⟨⟨by decide, by decide, by decide⟩, ⟨by decide, by decide, by decide⟩, ⟨by decide, by decide, by decide⟩, ⟨by decide, by decide, by decide⟩,
   ⟨by decide, by decide, by decide⟩, ⟨by decide, by decide, by decide⟩⟩

theorem test_update_ends :
    let s := { ready with sec := { Sec.reset with fwBusy := true, attStatus := 1 } }
    s.sec.fwBusy = true ∧ s.securityRuns = true ∧ s.mgmt.boot ≠ .recovery ∧ s.sec.attStatus = 1 ∧ imageFault [] s.rom = some 0x6001 := by decide

theorem test_management_resets :
    let s (l : List Dword) : State := { ready with mgmt := { ready.mgmt with resetting := true, resets := l } }
    ready.dealmeg = true ∧ (s [0]).mgmt.resetting = true ∧ thirdReset [0, 1, 600000000000] = true ∧ thirdReset [0, 1, 600000000001] = false ∧ thirdReset [0, 1] = false := by
  decide

theorem test_telemetry :
    let s := { scratched with regs := scratched.regs ++ [(Off.telemCtl, 1)] }
    s.dealmeg = true ∧ bit (s.reg Off.telemCtl) 0 = true ∧ s.inScratch 0 (4 * stripeBytes) = true ∧ (s.entry 0).state = .mapped ∧ ready.inScratch 0 (4 * stripeBytes) = false := by
  decide

/-- A turn armed in mode 2 whose time has come. -/
theorem test_turns :
    let s := ready.setReg Off.turnCtl 5
    s.frozen = true ∧ s.turnMode = 2 ∧ (s.reg Off.turnTime).toNat ≤ s.now.toNat ∧ s.mgmt.boot ≠ .recovery ∧ ready.frozen = false ∧
    ({ ready with mgmt := { ready.mgmt with refilling := true } }).mgmt.refilling = true := by decide

theorem test_register_writes :
    WriteTaken ready (barWrite Off.pwrCap 4 1) ∧ WriteTaken ready (barWrite (Off.pwrCap + 4) 4 1) ∧ slotOf (Off.pwrCap + 4) ∈ shOffsets ∧
    WriteTaken ready (barWrite Off.cap 8 1) ∧ WriteTaken ready (barWrite Off.detStatus 8 7) ∧ WriteTaken ready (barWrite Off.errInfo 8 1) ∧
    WriteTaken ready (barWrite Off.turnStatus 8 0) ∧ WriteTaken ready (barWrite Off.fwAddr 8 0xFFF) :=
  ⟨⟨by decide, by decide, by decide⟩, ⟨by decide, by decide, by decide⟩, by decide, ⟨by decide, by decide, by decide⟩, ⟨by decide, by decide, by decide⟩,
   ⟨by decide, by decide, by decide⟩, ⟨by decide, by decide, by decide⟩, ⟨by decide, by decide, by decide⟩⟩

theorem test_pages :
    let s := { ready with pins := { ready.pins with page := List.replicate 32 0, ptr := 31 } }
    s.mgmt.boot ≠ .off ∧ s.pins.ptr + 1 ≤ s.pins.page.length ∧ ([] : List Byte).length ≠ 1 ∧ ({ Pins.reset with resetN := false }).resetN = false := by decide

/-! Rules of the whole block -/

/-- A step that takes the one command of its queue. -/
theorem test_step : ∃ t, step { ready with pending := [.idcode] } = .next t ∧ Memory.wf ready.mem.stack = true ∧ t.pending = [] := ⟨_, rfl, by decide, rfl⟩

theorem test_reset_memory : Memory.wf State.reset.mem.stack = true := by decide


end Sys2Proof.Tests
end

section
/-! Raised records, and the rules of pushing (R27, R39, R41, R348). -/

namespace Sys2Proof.Machine

/-! ### Raised records -/

@[simp] theorem recordOf_code (x : Cause) (s : State) : (recordOf x s).code = x.code := rfl
@[simp] theorem recordOf_tag (x : Cause) (s : State) : (recordOf x s).tag = x.tag.setWidth 64 := rfl
@[simp] theorem recordOf_unit (x : Cause) (s : State) : (recordOf x s).unit = x.unit := rfl
@[simp] theorem recordOf_addr (x : Cause) (s : State) : (recordOf x s).addr = x.addr := rfl

/-- A raised record waits in the queue, if there is room (R571). -/
theorem recordOf_mem_raise (x : Cause) (s : State) (h : s.mgmt.queue.length < 4096) : recordOf x s ∈ (raise x s).mgmt.queue := by
  have hroom : ¬ 4096 ≤ s.mgmt.queue.length := by omega
  simp [raise_mgmt, hroom]

/-- A record that waits still waits after another is raised. -/
theorem mem_queue_raise {x : Cause} {s : State} {z : Record} (h : z ∈ s.mgmt.queue) : z ∈ (raise x s).mgmt.queue := by
  rw [raise_mgmt]
  split
  · exact h
  · exact List.mem_append_left _ h

/-! ### Pushing (R27, R39, R41) -/

/-- The fields of a tag do not overlap and do not overflow (R39). -/
theorem nextTag_toNat (c : CoreRef) (s : State) :
    (nextTag c s).toNat = s.progId.toNat * 2 ^ 36 + c.tile.val * 2 ^ 34 + c.core.val * 2 ^ 27 + (s.core c).index.toNat := by
  have hp := s.progId.isLt
  have ht := c.tile.isLt
  have hc := c.core.isLt
  have hi := (s.core c).index.isLt
  simp only [nextTag, BitVec.toNat_ofNat]
  omega

theorem tagFields : TagFields := by
  intro c s
  have ht := c.tile.isLt
  have hc := c.core.isLt
  have hi := (s.core c).index.isLt
  have hp := s.progId.isLt
  simp only [bits, nextTag_toNat, Nat.shiftRight_eq_div_pow]
  refine ⟨?_, ?_, ?_, ?_⟩ <;> omega

/-- The tag of the next push depends on the loaded program and the command index alone. -/
theorem nextTag_congr {c : CoreRef} {s t : State} (hp : t.program = s.program) (hi : (t.core c).index = (s.core c).index) :
    nextTag c t = nextTag c s := by simp [nextTag, State.progId, hp, hi]

section
variable (c : CoreRef) (e : Engine) (cmd : EngineCmd) (s : State)

/-- A push changes the cores alone. -/
theorem cores_enqueue_only : { s with cores := (enqueue c e cmd s).cores } = enqueue c e cmd s := rfl

theorem enqueue_mgmt : (enqueue c e cmd s).mgmt = s.mgmt := rfl

theorem core_enqueue_ne {d : CoreRef} (h : d ≠ c) : (enqueue c e cmd s).core d = s.core d := by
  simp [enqueue, countPush, State.core_modCore_ne, h]

@[simp] theorem queue_enqueue_same : ((enqueue c e cmd s).core c).queue e =
    (s.core c).queue e ++ [{ cmd := cmd, tag := nextTag c s, vpos := (s.core c).vcount }] := by
  simp only [enqueue, countPush, State.core_modCore_same]
  exact CoreSt.queue_setQueue_same _ e _

theorem queue_enqueue_ne {f : Engine} (h : f ≠ e) : ((enqueue c e cmd s).core c).queue f = (s.core c).queue f := by
  simp only [enqueue, countPush, State.core_modCore_same]
  exact CoreSt.queue_setQueue_ne _ _ h

@[simp] theorem index_enqueue : ((enqueue c e cmd s).core c).index = (s.core c).index + 1 := by
  simp [enqueue, countPush, CoreSt.setQueue]

@[simp] theorem stalled_enqueue : ((enqueue c e cmd s).core c).stalled = (s.core c).stalled := by
  simp [enqueue, countPush, CoreSt.setQueue]

end

/-- The control core stalls on a push of this command (R27). -/
def stallOn (c : CoreRef) (e : Engine) (cmd : EngineCmd) (s : State) : State :=
  s.modCore c (fun k => { k with stalled := some (e, cmd) })

theorem cores_stallOn_only (c : CoreRef) (e : Engine) (cmd : EngineCmd) (s : State) :
    { s with cores := (stallOn c e cmd s).cores } = stallOn c e cmd s := rfl

theorem stallOn_mgmt (c : CoreRef) (e : Engine) (cmd : EngineCmd) (s : State) : (stallOn c e cmd s).mgmt = s.mgmt := rfl

/-- The state in which the stalled push takes place: the control core runs again (R27). -/
def unstall (c : CoreRef) (s : State) : State := s.modCore c (fun k => { k with stalled := none })

theorem nextTag_unstall (c : CoreRef) (s : State) : nextTag c (unstall c s) = nextTag c s :=
  nextTag_congr rfl (by simp [unstall])

/-! The residue check of a push changes no core and no program. -/

@[simp] theorem controlResidue_cores (c : CoreRef) (b : Bool) (s : State) : (controlResidue c b s).cores = s.cores := by
  unfold controlResidue
  split
  · rw [raise_cores]; rfl
  · split
    · exact raise_cores _ _
    · rfl

@[simp] theorem controlResidue_program (c : CoreRef) (b : Bool) (s : State) : (controlResidue c b s).program = s.program := by
  unfold controlResidue
  split
  · rw [raise_program]; rfl
  · split
    · exact raise_program _ _
    · rfl

@[simp] theorem core_controlResidue (c d : CoreRef) (b : Bool) (s : State) : (controlResidue c b s).core d = s.core d :=
  core_of_cores (controlResidue_cores c b s) d

@[simp] theorem nextTag_controlResidue (c : CoreRef) (b : Bool) (s : State) : nextTag c (controlResidue c b s) = nextTag c s :=
  nextTag_congr (by simp) (by simp)

/-- With no injection at point 7, a push whose arithmetic is right changes nothing by its check. -/
theorem controlResidue_false {c : CoreRef} {s : State} (h : injecting (s.coreUnit c) 7 s = false) : controlResidue c false s = s := by
  simp [controlResidue, h]

/-- What has been raised stays raised where the management fields do not change. -/
theorem raisedFor_of_mgmt {s t u : State} {k : Code} {tag : Tag} (h : RaisedFor s t k tag) (hm : u.mgmt = t.mgmt) : RaisedFor s u k tag := by
  unfold RaisedFor
  rw [hm]
  exact h

/-- With no injection at point 7, a failed residue check raises 0x208D with the tag of the push (R348). -/
theorem raisedFor_controlResidue {c : CoreRef} {s : State} (h : injecting (s.coreUnit c) 7 s = false) :
    RaisedFor s (controlResidue c true s) 0x208D (nextTag c s) := by
  intro hroom
  simp only [controlResidue, h, Bool.false_eq_true, if_false, if_true]
  exact ⟨_, recordOf_mem_raise _ s hroom, recordOf_code _ s, recordOf_tag _ s⟩

theorem exec_pushCommand (c : CoreRef) (p : PushRun) (s : State) : exec (.pushCommand c p) s = execPushCommand c p s := rfl
theorem exec_pushResume (c : CoreRef) (s : State) : exec (.pushResume c) s = execPushResume c s := rfl

/-- A push to an engine, once its residue check is made: it enters its queue, or the control core stalls (R27). -/
theorem exec_pushCommand_engine {c : CoreRef} {s : State} (e : Engine) (cmd : EngineCmd) (b : Bool) (h : canPush c s = true) :
    exec (.pushCommand c { pushed := .engine e cmd, residue := b }) s =
      .next (if ((s.core c).queue e).length < 32 then enqueue c e cmd (controlResidue c b s) else stallOn c e cmd (controlResidue c b s)) := by
  simp only [exec_pushCommand, execPushCommand, h, if_true, core_controlResidue, queueRoom, stallOn]
  split <;> rfl

/-- R27, R41: a push to a queue with room; what its residue check raised stays raised. -/
theorem pushCommand_with_room {c : CoreRef} {s : State} (e : Engine) (cmd : EngineCmd) (b : Bool) (h : canPush c s = true)
    (hroom : ((s.core c).queue e).length < 32) :
    exec (.pushCommand c { pushed := .engine e cmd, residue := b }) s = .next (enqueue c e cmd (controlResidue c b s)) := by
  rw [exec_pushCommand_engine e cmd b h, if_pos hroom]

/-- R27: a push to a full queue. -/
theorem pushCommand_when_full {c : CoreRef} {s : State} (e : Engine) (cmd : EngineCmd) (b : Bool) (h : canPush c s = true)
    (hfull : ¬ ((s.core c).queue e).length < 32) :
    exec (.pushCommand c { pushed := .engine e cmd, residue := b }) s = .next (stallOn c e cmd (controlResidue c b s)) := by
  rw [exec_pushCommand_engine e cmd b h, if_neg hfull]

/-- R27: the stalled push takes place once an entry is free. -/
theorem pushResume_with_room {c : CoreRef} {s : State} {e : Engine} {cmd : EngineCmd} (h : (s.core c).stalled = some (e, cmd))
    (hroom : ((s.core c).queue e).length < 32) : exec (.pushResume c) s = .next (enqueue c e cmd (unstall c s)) := by
  simp [exec_pushResume, execPushResume, h, queueRoom, hroom, unstall]

/-- The stalled push changes the cores alone. -/
theorem cores_pushResume_only (c : CoreRef) (e : Engine) (cmd : EngineCmd) (s : State) :
    { s with cores := (enqueue c e cmd (unstall c s)).cores } = enqueue c e cmd (unstall c s) :=
  cores_enqueue_only c e cmd (unstall c s)

theorem core_unstall_ne (s : State) {c d : CoreRef} (h : d ≠ c) : (unstall c s).core d = s.core d := State.core_modCore_ne s _ h

@[simp] theorem core_unstall_same (c : CoreRef) (s : State) : (unstall c s).core c = { s.core c with stalled := none } :=
  State.core_modCore_same s c _

theorem pushesEnterQueues : PushesEnterQueues := by
  intro s c e cmd
  constructor
  · intro residue hcan hinj
    by_cases hroom : ((s.core c).queue e).length < 32
    · refine ⟨_, pushCommand_with_room e cmd residue hcan hroom, fun d hd => ?_, ?_, ?_, ?_⟩
      · rw [core_enqueue_ne _ _ _ _ hd, core_controlResidue]
      · rintro rfl; rw [controlResidue_false hinj]; exact cores_enqueue_only c e cmd s
      · rintro rfl; exact raisedFor_of_mgmt (raisedFor_controlResidue hinj) (enqueue_mgmt ..)
      · rw [if_pos hroom]
        exact ⟨by simp, fun f hf => by rw [queue_enqueue_ne _ _ _ _ hf, core_controlResidue], by simp⟩
    · refine ⟨_, pushCommand_when_full e cmd residue hcan hroom, fun d hd => ?_, ?_, ?_, ?_⟩
      · rw [stallOn, State.core_modCore_ne _ _ hd, core_controlResidue]
      · rintro rfl; rw [controlResidue_false hinj]; exact cores_stallOn_only c e cmd s
      · rintro rfl; exact raisedFor_of_mgmt (raisedFor_controlResidue hinj) (stallOn_mgmt ..)
      · rw [if_neg hroom, stallOn, State.core_modCore_same, core_controlResidue]
  · intro hstalled hroom
    refine ⟨_, pushResume_with_room hstalled hroom, cores_pushResume_only c e cmd s, fun d hd => ?_, by simp, by simp, ?_, fun f hf => ?_⟩
    · rw [core_enqueue_ne _ _ _ _ hd, core_unstall_ne _ hd]
    · rw [queue_enqueue_same, nextTag_unstall, core_unstall_same]; rfl
    · rw [queue_enqueue_ne _ _ _ _ hf, core_unstall_same]; rfl

/-- Settles O2: the fields of a tag by its value as a number, and the pushes by the rules of `enqueue`, the residue check
and the stall. -/
theorem pushEntersOrStalls : Obligations.PushEntersOrStalls := ⟨tagFields, pushesEnterQueues⟩

end Sys2Proof.Machine
end

section
/-! What the bookkeeping of a command leaves as it was, and the rules of posts (R30, R34). -/

namespace Sys2Proof.Machine

/-! ### What a command's bookkeeping leaves as it was -/

/-- Of the cores and memories, only what core `c` runs and its token counters differ, and no waiting record is lost. -/
structure OnlyBooks (c : CoreRef) (s t : State) : Prop where
  core : ∃ r m, t.core c = { s.core c with running := r, tokens := m }
  others : ∀ d, d ≠ c → t.core d = s.core d
  mem : t.mem = s.mem
  queue : ∀ z ∈ s.mgmt.queue, z ∈ t.mgmt.queue

namespace OnlyBooks

variable {c : CoreRef} {s t u : State}

theorem refl (c : CoreRef) (s : State) : OnlyBooks c s s := ⟨⟨_, _, rfl⟩, fun _ _ => rfl, rfl, fun _ h => h⟩

theorem trans (h : OnlyBooks c s t) (k : OnlyBooks c t u) : OnlyBooks c s u := by
  obtain ⟨r, m, hc⟩ := h.core
  obtain ⟨r', m', kc⟩ := k.core
  exact ⟨⟨r', m', by rw [kc, hc]⟩, fun d hd => (k.others d hd).trans (h.others d hd), k.mem.trans h.mem,
    fun z hz => k.queue z (h.queue z hz)⟩

theorem regions (h : OnlyBooks c s t) (d : CoreRef) : (t.core d).regions = (s.core d).regions := by
  by_cases hd : d = c
  · subst hd
    obtain ⟨r, m, hc⟩ := h.core
    rw [hc]
  · rw [h.others d hd]

theorem region (h : OnlyBooks c s t) (d : CoreRef) (m : Space) (id : Nat) : (t.core d).region m id = (s.core d).region m id := by
  unfold CoreSt.region
  rw [h.regions d]

theorem memories (h : OnlyBooks c s t) : CoreMemoriesKept s t := by
  intro d
  by_cases hd : d = c
  · subst hd
    obtain ⟨r, m, hc⟩ := h.core
    rw [hc]
    exact ⟨rfl, rfl, rfl⟩
  · rw [h.others d hd]
    exact ⟨rfl, rfl, rfl⟩

end OnlyBooks

theorem coreMemoriesKept_trans {s t u : State} (h : CoreMemoriesKept s t) (k : CoreMemoriesKept t u) : CoreMemoriesKept s u := by
  intro d
  obtain ⟨hsp, hacc, hoc⟩ := h d
  obtain ⟨ksp, kacc, koc⟩ := k d
  exact ⟨ksp.trans hsp, kacc.trans hacc, koc.trans hoc⟩

theorem onlyBooks_raise (c : CoreRef) (x : Cause) (s : State) : OnlyBooks c s (raise x s) :=
  ⟨⟨_, _, core_raise x s c⟩, fun d _ => core_raise x s d, raise_mem x s, fun _ h => mem_queue_raise h⟩

theorem onlyBooks_modRun (c : CoreRef) (e : Engine) (f : Running → Running) (s : State) : OnlyBooks c s (modRun c e f s) :=
  ⟨⟨_, _, State.core_modCore_same s c _⟩, fun _ h => State.core_modCore_ne s _ h, rfl, fun _ h => h⟩

/-! ### Posts (R30, R34) -/

/-- The state in which a token counter has been set. -/
def setToken (c : CoreRef) (n : Nat) (v : BitVec 16) (s : State) : State :=
  s.modCore c (fun k => { k with tokens := Sparse.store (fun _ => 0) k.tokens n v })

theorem onlyBooks_setToken (c : CoreRef) (n : Nat) (v : BitVec 16) (s : State) : OnlyBooks c s (setToken c n v s) :=
  ⟨⟨_, _, State.core_modCore_same s c _⟩, fun _ h => State.core_modCore_ne s _ h, rfl, fun _ h => h⟩

theorem tokens_setToken (c : CoreRef) (n : Nat) (v : BitVec 16) (s : State) :
    ((setToken c n v s).core c).tokens = Sparse.store (fun _ => 0) (s.core c).tokens n v := by simp [setToken]

/-- A post sets its counter, and raises 0x2016 when it would pass 65,535 (R34). -/
theorem posttoken_eq (c : CoreRef) (n amt : Nat) (tag : Tag) (s : State) :
    ∃ x : Cause, x.code = 0x2016 ∧ x.tag = tag ∧ postToken c n amt tag s =
      if 65535 < Token s c n + amt then raise x (setToken c n (BitVec.ofNat 16 (min (Token s c n + amt) 65535)) s)
      else setToken c n (BitVec.ofNat 16 (min (Token s c n + amt) 65535)) s :=
  ⟨{ code := 0x2016, unit := (setToken c n (BitVec.ofNat 16 (min (Token s c n + amt) 65535)) s).coreUnit c, tag := tag,
     epoch := (s.core c).placeEpoch }, rfl, rfl, rfl⟩

theorem onlyBooks_postToken (c : CoreRef) (n amt : Nat) (tag : Tag) (s : State) : OnlyBooks c s (postToken c n amt tag s) := by
  obtain ⟨x, -, -, h⟩ := posttoken_eq c n amt tag s
  rw [h]
  split
  · exact (onlyBooks_setToken c n _ s).trans (onlyBooks_raise c x _)
  · exact onlyBooks_setToken c n _ s

theorem tokens_postToken (c : CoreRef) (n amt : Nat) (tag : Tag) (s : State) : ((postToken c n amt tag s).core c).tokens =
    Sparse.store (fun _ => 0) (s.core c).tokens n (BitVec.ofNat 16 (min (Token s c n + amt) 65535)) := by
  obtain ⟨x, -, -, h⟩ := posttoken_eq c n amt tag s
  rw [h]
  split
  · rw [core_raise, tokens_setToken]
  · exact tokens_setToken c n _ s

/-- A post runs no command and ends none. -/
theorem run_postToken (c : CoreRef) (n amt : Nat) (tag : Tag) (s : State) (e : Engine) :
    ((postToken c n amt tag s).core c).run e = (s.core c).run e := by
  obtain ⟨x, -, -, h⟩ := posttoken_eq c n amt tag s
  rw [h]
  split <;> simp [setToken, CoreSt.run]

/-- What each counter of the core holds after a post (R34). -/
theorem token_postToken (c : CoreRef) (n amt m : Nat) (tag : Tag) (s : State) :
    Token (postToken c n amt tag s) c m = if m = n then min 65535 (Token s c m + amt) else Token s c m := by
  unfold Token
  rw [tokens_postToken, Sparse.look_store_eq]
  split
  · subst m
    simp only [Token, BitVec.toNat_ofNat]
    omega
  · rfl

theorem token_lt (s : State) (c : CoreRef) (n : Nat) : Token s c n < 65536 := BitVec.isLt _

theorem postSaturates : PostSaturates := by
  intro s c n amt tag old t
  obtain ⟨x, hcode, htag, heq⟩ := posttoken_eq c n amt tag s
  have hbooks : OnlyBooks c s t := onlyBooks_postToken c n amt tag s
  refine ⟨?_, fun m hm => ?_, fun hover hroom => ?_, fun hfits => ?_, hbooks.mem, hbooks.others⟩
  · exact (token_postToken c n amt n tag s).trans (if_pos rfl)
  · show Sparse.look _ ((postToken c n amt tag s).core c).tokens m = _
    rw [tokens_postToken, Sparse.look_store_ne _ _ _ hm]
  · have hraise : t = raise x _ := heq.trans (if_pos hover)
    rw [hraise]
    exact ⟨_, recordOf_mem_raise x _ hroom, (recordOf_code x _).trans hcode, by rw [recordOf_tag, htag]⟩
  · show (postToken c n amt tag s).mgmt = s.mgmt
    rw [heq, if_neg (by show ¬ 65535 < old + amt; omega)]
    rfl

/-- One turn of `postTokens`: the post of one counter, if its amounts are not all zero. -/
def postCounter (c : CoreRef) (l : List TokAmt) (tag : Tag) (s : State) (n : Nat) : State :=
  if amountFor l n = 0 then s else postToken c n (amountFor l n) tag s

theorem postTokens_eq (c : CoreRef) (l : List TokAmt) (tag : Tag) (s : State) :
    postTokens c l tag s = (l.map (fun t => t.counter.val)).eraseDups.foldl (postCounter c l tag) s := rfl

theorem onlyBooks_postCounter (c : CoreRef) (l : List TokAmt) (tag : Tag) (s : State) (n : Nat) :
    OnlyBooks c s (postCounter c l tag s n) := by
  unfold postCounter
  split
  · exact OnlyBooks.refl c s
  · exact onlyBooks_postToken c n _ tag s

theorem run_postCounter (c : CoreRef) (l : List TokAmt) (tag : Tag) (s : State) (n : Nat) (e : Engine) :
    ((postCounter c l tag s n).core c).run e = (s.core c).run e := by
  unfold postCounter
  split
  · rfl
  · exact run_postToken c n _ tag s e

theorem token_postCounter (c : CoreRef) (l : List TokAmt) (tag : Tag) (s : State) (n m : Nat) :
    Token (postCounter c l tag s n) c m = if m = n then min 65535 (Token s c m + amountFor l m) else Token s c m := by
  have hlt := token_lt s c m
  unfold postCounter
  split
  next hzero =>
    split
    · subst m; omega
    · rfl
  next =>
    rw [token_postToken]
    split
    · subst m; rfl
    · rfl

theorem onlyBooks_postTokens (c : CoreRef) (l : List TokAmt) (tag : Tag) (s : State) : OnlyBooks c s (postTokens c l tag s) := by
  rw [postTokens_eq]
  generalize (l.map (fun t => t.counter.val)).eraseDups = ns
  induction ns generalizing s with
  | nil => exact OnlyBooks.refl c s
  | cons n ns ih => exact (onlyBooks_postCounter c l tag s n).trans (ih _)

theorem run_postTokens (c : CoreRef) (l : List TokAmt) (tag : Tag) (s : State) (e : Engine) :
    ((postTokens c l tag s).core c).run e = (s.core c).run e := by
  rw [postTokens_eq]
  generalize (l.map (fun t => t.counter.val)).eraseDups = ns
  induction ns generalizing s with
  | nil => rfl
  | cons n ns ih => exact (ih _).trans (run_postCounter c l tag s n e)

/-- Leaving out repetitions leaves each item once. -/
theorem nodup_eraseDups (l : List Nat) : l.eraseDups.Nodup := by
  match l with
  | [] => exact List.nodup_nil
  | a :: r =>
    rw [List.eraseDups_cons, List.nodup_cons]
    exact ⟨by simp [List.mem_eraseDups], nodup_eraseDups _⟩
termination_by l.length
decreasing_by exact Nat.lt_succ_of_le (List.length_filter_le _ r)

/-- Turns over distinct counters add the amounts of each counter once. -/
theorem token_postCounters (c : CoreRef) (l : List TokAmt) (tag : Tag) (m : Nat) (ns : List Nat) (hns : ns.Nodup) (s : State) :
    Token (ns.foldl (postCounter c l tag) s) c m = if m ∈ ns then min 65535 (Token s c m + amountFor l m) else Token s c m := by
  induction ns generalizing s with
  | nil => rfl
  | cons n ns ih =>
    obtain ⟨hn, hrest⟩ := List.nodup_cons.mp hns
    rw [List.foldl_cons, ih hrest, token_postCounter]
    by_cases hm : m = n
    · subst m; simp [hn]
    · simp [hm]

theorem total_eq_sum (l : List Nat) : total l = l.sum := List.sum_eq_foldl.symm

/-- A list names nothing for a counter that no item of it names. -/
theorem amountFor_eq_zero {l : List TokAmt} {m : Nat} (h : m ∉ l.map (fun t => t.counter.val)) : amountFor l m = 0 := by
  rw [amountFor, total_eq_sum, List.sum_eq_zero_iff_forall_eq_nat]
  intro a ha
  obtain ⟨t, ht, rfl⟩ := List.mem_map.mp ha
  rw [if_neg]
  rintro rfl
  exact h (List.mem_map.mpr ⟨t, ht, rfl⟩)

/-- Every counter takes the sum of the amounts posted to it, and saturates (R30, R34). -/
theorem token_postTokens (c : CoreRef) (l : List TokAmt) (tag : Tag) (s : State) (m : Nat) :
    Token (postTokens c l tag s) c m = min 65535 (Token s c m + amountFor l m) := by
  rw [postTokens_eq, token_postCounters c l tag m _ (nodup_eraseDups _)]
  split
  · rfl
  next hm =>
    have hzero := amountFor_eq_zero (l := l) (m := m) (by simpa [List.mem_eraseDups] using hm)
    have hlt := token_lt s c m
    omega

end Sys2Proof.Machine
end

section
/-! Epoch checks and releases (R46 to R51). -/

namespace Sys2Proof.Machine

/-! ### The record of a check -/

/-- A running command with one more code that it has raised. -/
def Running.noteRaised (code : Code) (r : Running) : Running := { r with raised := r.raised ++ [code] }

/-- A code that the command has raised already is not raised again (R322). -/
theorem raiseFor_again {c : CoreRef} {e : Engine} {x : Cause} {s : State} {r : Running} (hr : (s.core c).run e = some r)
    (h : x.code ∈ r.raised) : raiseFor c e x s = s := by
  simp [raiseFor, report, hr, h]

/-- A code that the running command raises for the first time. -/
theorem raiseFor_first {c : CoreRef} {e : Engine} {x : Cause} {s : State} {r : Running} (hr : (s.core c).run e = some r)
    (h : x.code ∉ r.raised) : raiseFor c e x s = modRun c e (Running.noteRaised x.code)
      (raise { x with unit := s.coreUnit c, epoch := (s.core c).placeEpoch, tag := r.q.tag } s) := by
  simp only [raiseFor, report, hr, if_neg h]
  rfl

theorem raiseFor_idle {c : CoreRef} {e : Engine} {x : Cause} {s : State} (hr : (s.core c).run e = none) : raiseFor c e x s = s := by
  simp [raiseFor, report, hr]

theorem onlyBooks_raiseFor (c : CoreRef) (e : Engine) (x : Cause) (s : State) : OnlyBooks c s (raiseFor c e x s) := by
  cases hr : (s.core c).run e with
  | none => rw [raiseFor_idle hr]; exact OnlyBooks.refl c s
  | some r =>
    by_cases h : x.code ∈ r.raised
    · rw [raiseFor_again hr h]; exact OnlyBooks.refl c s
    · rw [raiseFor_first hr h]; exact (onlyBooks_raise c _ s).trans (onlyBooks_modRun c e _ _)

theorem tokens_modRun (c d : CoreRef) (e : Engine) (f : Running → Running) (s : State) :
    ((modRun c e f s).core d).tokens = (s.core d).tokens := by
  by_cases hd : d = c
  · subst hd; simp [modRun, CoreSt.setRun]
  · rw [modRun, State.core_modCore_ne s _ hd]

section
variable (c : CoreRef) (e : Engine) (cmd : EngineCmd) (tag : Tag) (code : Code) (addr : Dword) (s : State)

theorem onlyBooks_raiseCheck : OnlyBooks c s (raiseCheck c e cmd tag code addr s) := by
  unfold raiseCheck
  split
  · exact onlyBooks_raiseFor c e _ s
  · exact onlyBooks_raise c _ s

theorem token_raiseFor (x : Cause) (m : Nat) : Token (raiseFor c e x s) c m = Token s c m := by
  cases hr : (s.core c).run e with
  | none => rw [raiseFor_idle hr]
  | some r =>
    by_cases h : x.code ∈ r.raised
    · rw [raiseFor_again hr h]
    · rw [raiseFor_first hr h, Token, tokens_modRun, core_raise, Token]

theorem token_raiseCheck (m : Nat) : Token (raiseCheck c e cmd tag code addr s) c m = Token s c m := by
  unfold raiseCheck
  split
  · exact token_raiseFor c e s _ m
  · rw [Token, core_raise, Token]

end

/-- The check changes of the running command at most the codes that it has raised. -/
theorem run_raiseCheck {c : CoreRef} {e : Engine} {s : State} {r : Running} (cmd : EngineCmd) (tag : Tag) (code : Code) (addr : Dword)
    (hr : (s.core c).run e = some r) :
    ∃ l, ((raiseCheck c e cmd tag code addr s).core c).run e = some { r with raised := l } := by
  unfold raiseCheck
  split
  · by_cases h : code ∈ r.raised
    · exact ⟨_, by rw [raiseFor_again hr h]; exact hr⟩
    · exact ⟨_, by rw [raiseFor_first hr h, run_modRun, core_raise, hr]; rfl⟩
  · exact ⟨_, by rw [core_raise]; exact hr⟩

/-- The record of a check carries the code, the tag and the address that the check gives it; a quantizing command, which raises
each code once (R134), must not have raised this one. -/
theorem raiseCheck_raises {c : CoreRef} {e : Engine} {cmd : EngineCmd} {tag : Tag} {code : Code} {s : State} (addr : Dword)
    (hroom : s.mgmt.queue.length < 4096)
    (h : quantizes cmd = false ∨ ∃ r, (s.core c).run e = some r ∧ r.q.tag = tag ∧ code ∉ r.raised) :
    ∃ z ∈ (raiseCheck c e cmd tag code addr s).mgmt.queue, z.code = code ∧ z.tag = tag.setWidth 64 ∧ z.addr = addr := by
  unfold raiseCheck
  split
  next hquant =>
    obtain hplain | ⟨r, hr, rfl, hnew⟩ := h
    · rw [hplain] at hquant; cases hquant
    · rw [raiseFor_first hr hnew]
      exact ⟨_, recordOf_mem_raise _ s hroom, recordOf_code _ s, recordOf_tag _ s, recordOf_addr _ s⟩
  next => exact ⟨_, recordOf_mem_raise _ s hroom, recordOf_code _ s, recordOf_tag _ s, recordOf_addr _ s⟩

/-! ### Regions -/

theorem CoreSt.region_setRegion (k : CoreSt) (m p : Space) (id j : Nat) (g : Region) :
    (k.setRegion m id g).region p j = if regionKey p j = regionKey m id then some g else k.region p j :=
  Sparse.look_store_eq (fun _ => none) k.regions (regionKey m id) (regionKey p j) (some g)

/-- The state in which a region of a core has been replaced. -/
def setRegionOf (k : CoreRef) (o : RegionOp) (g : Region) (s : State) : State := s.modCore k (fun v => v.setRegion o.space o.region g)

section
variable (k : CoreRef) (o : RegionOp) (g : Region) (s : State)

theorem region_setRegionOf_same : ((setRegionOf k o g s).core k).region o.space o.region = some g := by
  rw [setRegionOf, State.core_modCore_same, CoreSt.region_setRegion, if_pos rfl]

theorem core_setRegionOf_ne {d : CoreRef} (h : d ≠ k) : (setRegionOf k o g s).core d = s.core d := State.core_modCore_ne s _ h

theorem region_setRegionOf_ne {d : CoreRef} {m : Space} {id : Nat} (h : d ≠ k ∨ regionKey m id ≠ regionKey o.space o.region) :
    ((setRegionOf k o g s).core d).region m id = (s.core d).region m id := by
  by_cases hd : d = k
  · subst hd
    rw [setRegionOf, State.core_modCore_same, CoreSt.region_setRegion, if_neg (h.resolve_left (fun n => n rfl))]
  · rw [core_setRegionOf_ne k o g s hd]

/-- Replacing a region changes of a core the regions alone. -/
theorem core_setRegionOf (d : CoreRef) : ∃ l, (setRegionOf k o g s).core d = { s.core d with regions := l } := by
  by_cases hd : d = k
  · subst hd; exact ⟨_, State.core_modCore_same s d _⟩
  · exact ⟨_, core_setRegionOf_ne k o g s hd⟩

theorem memories_setRegionOf : CoreMemoriesKept s (setRegionOf k o g s) := by
  intro d
  obtain ⟨l, h⟩ := core_setRegionOf k o g s d
  rw [h]
  exact ⟨rfl, rfl, rfl⟩

theorem run_setRegionOf (d : CoreRef) (e : Engine) : ((setRegionOf k o g s).core d).run e = (s.core d).run e := by
  obtain ⟨l, h⟩ := core_setRegionOf k o g s d
  rw [h]
  rfl

theorem token_setRegionOf (d : CoreRef) (m : Nat) : Token (setRegionOf k o g s) d m = Token s d m := by
  obtain ⟨l, h⟩ := core_setRegionOf k o g s d
  rw [Token, h, Token]

end

/-- A region whose epoch has advanced is open for writing (R46). -/
def Region.advanced (g : Region) : Region := { g with epoch := g.epoch + 1, owner := none }

theorem advanceEpoch_eq {k : CoreRef} {o : RegionOp} {s : State} {g : Region} (h : (s.core k).region o.space o.region = some g) :
    advanceEpoch k o s = setRegionOf k o g.advanced s := by simp only [advanceEpoch, h]; rfl

/-! ### Releases (R31, R46, R50, R51) -/

/-- A running command with one more operand released. -/
def Running.noteReleased (n : Nat) (r : Running) : Running := { r with released := r.released ++ [n] }

/-- The posts tied to the release of operand `n` (R31). -/
def releasePosts (r : Running) (n : Nat) : List TokAmt := (r.q.cmd.posts.filter (fun p => p.atRelease == some n)).map (fun p => p.tok)

/-- Notes the release of operand `n` and makes the posts tied to it. -/
def noteRelease (c : CoreRef) (e : Engine) (r : Running) (n : Nat) (s : State) : State :=
  postTokens c (releasePosts r n) r.q.tag (modRun c e (Running.noteReleased n) s)

section
variable (c : CoreRef) (e : Engine) (r : Running) (n : Nat) (s : State)

theorem onlyBooks_noteRelease : OnlyBooks c s (noteRelease c e r n s) :=
  (onlyBooks_modRun c e _ s).trans (onlyBooks_postTokens c _ _ _)

theorem token_noteRelease (m : Nat) :
    Token (noteRelease c e r n s) c m = min 65535 (Token s c m + amountFor (releasePosts r n) m) := by
  rw [noteRelease, token_postTokens]
  unfold Token
  rw [tokens_modRun]

theorem run_noteRelease : ((noteRelease c e r n s).core c).run e = ((s.core c).run e).map (Running.noteReleased n) := by
  rw [noteRelease, run_postTokens, run_modRun]

end

theorem exec_epochRelease (c : CoreRef) (e : Engine) (n : Nat) (s : State) : exec (.epochRelease c e n) s = execEpochRelease c e n s := rfl

/-- The release of a marked operand that was read and is not released yet, of a command whose operation is carried out (R46, R51). -/
theorem exec_epochRelease_operand {s : State} {c k : CoreRef} {e : Engine} {n : Nat} {r : Running} {o : RegionOp}
    (hrun : (s.core c).run e = some r) (hdone : r.done = true) (hnoop : r.noop = false) (hrefused : r.refused = false)
    (hnamed : (nth r.accesses n accNone).named c = some (k, o, false)) (hmark : o.release = true) (hnew : n ∉ r.released) :
    exec (.epochRelease c e n) s = .next (noteRelease c e r n
      (if n ∈ r.badReads then raiseCheck c e r.q.cmd r.q.tag 0x2012 ((nth r.accesses n accNone).first c s) s
       else if regionReleased c r k o then s else advanceEpoch k o s)) := by
  simp [exec_epochRelease, execEpochRelease, releaseOperand, hrun, hdone, hnoop, hrefused, hnamed, hmark, hnew]
  rfl

theorem releaseAdvancesEpoch : ReleaseAdvancesEpoch := by
  intro s c k e n r o g hrun hdone hnoop hrefused hnamed hmark hnew hfirst hregion
  refine ⟨_, exec_epochRelease_operand hrun hdone hnoop hrefused hnamed hmark hnew, ?_⟩
  rw [hfirst, if_neg Bool.false_ne_true, advanceEpoch_eq hregion]
  by_cases hbad : n ∈ r.badReads
  · simp only [if_pos hbad]
    generalize hu : raiseCheck c e r.q.cmd r.q.tag 0x2012 ((nth r.accesses n accNone).first c s) s = u
    have hcheck : OnlyBooks c s u := hu ▸ onlyBooks_raiseCheck ..
    have hnote : OnlyBooks c u (noteRelease c e r n u) := onlyBooks_noteRelease c e r n u
    have hall := hcheck.trans hnote
    refine ⟨(hall.region ..).trans hregion, fun d m id _ => hall.region d m id, fun _ hraised hroom => ?_, fun m => ?_, ?_,
      hall.memories, hall.mem, fun d hd _ => hall.others d hd⟩
    · obtain ⟨z, hz, hcode, htag, -⟩ := raiseCheck_raises ((nth r.accesses n accNone).first c s) hroom (.inr ⟨r, hrun, rfl, hraised⟩)
      exact ⟨z, hnote.queue z (hu ▸ hz), hcode, htag⟩
    · rw [token_noteRelease, ← hu, token_raiseCheck]; rfl
    · obtain ⟨l, hl⟩ := run_raiseCheck r.q.cmd r.q.tag 0x2012 ((nth r.accesses n accNone).first c s) hrun
      rw [run_noteRelease, ← hu, hl]
      exact ⟨_, rfl, rfl, rfl⟩
  · simp only [if_neg hbad]
    generalize hu : setRegionOf k o g.advanced s = u
    have hnote : OnlyBooks c u (noteRelease c e r n u) := onlyBooks_noteRelease c e r n u
    refine ⟨?_, fun d m id hd => ?_, fun h => absurd h hbad, fun m => ?_, ?_, ?_, ?_, fun d hd hk => ?_⟩
    · rw [hnote.region, ← hu, region_setRegionOf_same]; rfl
    · rw [hnote.region, ← hu, region_setRegionOf_ne k o _ s hd]
    · rw [token_noteRelease, ← hu, token_setRegionOf]; rfl
    · rw [run_noteRelease, ← hu, run_setRegionOf, hrun]
      exact ⟨_, rfl, rfl, rfl⟩
    · exact coreMemoriesKept_trans (hu ▸ memories_setRegionOf k o g.advanced s) hnote.memories
    · rw [hnote.mem, ← hu]; rfl
    · rw [hnote.others d hd, ← hu, core_setRegionOf_ne k o _ s hk]

/-! ### Write checks (R48, R49) -/

/-- May a writer take the epoch that an operand names of a region: it is the current one, and nobody's or its own (R48, R49). -/
def mayWrite (w : UnitRef) (o : RegionOp) (g : Region) : Prop := o.epoch = g.epoch ∧ (g.owner = none ∨ g.owner = some w)

section
variable {x : Checked} {c k : CoreRef} {e : Engine} {cmd : EngineCmd} {l : List Access} {tag : Tag} {n : Nat} {o : RegionOp} {g : Region}

/-- A write check that passes: the epoch is the writer's own. -/
theorem checkOperand_passes (hnamed : (nth l n accNone).named c = some (k, o, true))
    (hregion : (x.s.core k).region o.space o.region = some g) (h : mayWrite (.core c e) o g) :
    ∃ seen, checkOperand c e cmd l tag x n =
      { x with s := if g.owner = none then setRegionOf k o { g with owner := some (.core c e) } x.s else x.s, seen := seen } := by
  refine ⟨x.seen ++ [(coreRegion k o.space o.region, true, o.epoch)], ?_⟩
  obtain ⟨hepoch, hnone | hown⟩ := h
  · simp [checkOperand, hnamed, hregion, hepoch, hnone, setRegionOf]
  · simp [checkOperand, hnamed, hregion, hepoch, hown]

/-- A write check that fails, the first of its region: its code is raised and the region's writes are suppressed. -/
theorem checkOperand_fails (hnamed : (nth l n accNone).named c = some (k, o, true))
    (hregion : (x.s.core k).region o.space o.region = some g) (hseen : x.seen = []) (h : ¬ mayWrite (.core c e) o g) :
    ∃ seen, checkOperand c e cmd l tag x n =
      { x with s := raiseCheck c e cmd tag (if o.epoch = g.epoch then 0x2013 else 0x2010) ((nth l n accNone).first c x.s) x.s,
               suppressed := x.suppressed ++ [coreRegion k o.space o.region], seen := seen } := by
  refine ⟨[(coreRegion k o.space o.region, true, o.epoch)], ?_⟩
  by_cases hepoch : o.epoch = g.epoch
  · cases hw : g.owner with
    | none => exact absurd ⟨hepoch, .inl hw⟩ h
    | some w =>
      have hother : w ≠ .core c e := fun hwe => h ⟨hepoch, .inr (by rw [hw, hwe])⟩
      simp [checkOperand, hnamed, hregion, hseen, hepoch, hw, hother]
  · simp [checkOperand, hnamed, hregion, hseen, hepoch]

end

theorem writeCheck : WriteCheck := by
  intro x c k e cmd l tag n o g hnamed hregion hseen hquant y
  split
  next hpass =>
    obtain ⟨seen, hy⟩ := checkOperand_passes (cmd := cmd) (tag := tag) hnamed hregion hpass
    have hys : y = _ := hy
    rw [hys]
    refine ⟨rfl, ?_, ?_⟩
    · split
      · exact region_setRegionOf_same k o _ x.s
      next howned => rw [hregion, ← hpass.2.resolve_left howned]
    · split <;> rfl
  next hfail =>
    obtain ⟨seen, hy⟩ := checkOperand_fails (cmd := cmd) (tag := tag) hnamed hregion hseen hfail
    have hys : y = _ := hy
    rw [hys]
    have hbooks := onlyBooks_raiseCheck c e cmd tag (if o.epoch = g.epoch then 0x2013 else 0x2010) ((nth l n accNone).first c x.s) x.s
    refine ⟨rfl, hbooks.regions, hbooks.memories, fun hroom => ?_⟩
    obtain ⟨z, hz, hcode, htag, haddr⟩ := raiseCheck_raises (c := c) (e := e) (cmd := cmd) (tag := tag)
      (code := if o.epoch = g.epoch then 0x2013 else 0x2010) ((nth l n accNone).first c x.s) hroom
      (hquant.imp_right (fun ⟨r, hr, htag, hstale, howned⟩ => ⟨r, hr, htag, by split <;> assumption⟩))
    exact ⟨z, hz, htag, haddr, hcode⟩

/-- Settles O4: the release and the write check, each from its one equation and the frames of what it is made of. -/
theorem epochsGuardRegions : Obligations.EpochsGuardRegions := ⟨releaseAdvancesEpoch, writeCheck⟩

end Sys2Proof.Machine
end

section
/-! Time-outs (R60, R61): what raising a record does to the running step, and what aborting the program leaves. -/

namespace Sys2Proof.Machine

/-! ### The running step -/

/-- Raising a record marks the running step and changes nothing else of it (R349). -/
theorem raise_step (x : Cause) (s : State) : (raise x s).step = (stepMark (recordOf x s) s).step := by
  have q : ∀ (r : Record) (t : State), (queueRecord r t).step = t.step := by
    intro r t; unfold queueRecord; dsimp only; split <;> split <;> rfl
  have n : ∀ (r : Record) (t : State), (noteSpares r t).step = t.step := by
    intro r t; unfold noteSpares; split <;> rfl
  have h : ∀ (k : Code) (t : State), (hazardBit k t).step = t.step := by
    intro k t; unfold hazardBit; split <;> rfl
  have p : ∀ (k : Cause) (r : Record) (t : State), (permanentByReplay k r t).step = t.step := by
    intro k r t; obtain ⟨d, u, g, e⟩ := permanentByReplay_eq k r t; rw [e]
  unfold raise
  rw [(posted_eventEntry _ _).step, q, n, h, p]
  rfl

/-- A record of an invalidating code makes the running step invalid; its number stays, and so does what it has applied. -/
theorem step_raise_invalid {x : Cause} {s : State} {st : StepRun} (hstep : s.step = some st) (h : (disposition x.code).invalid = true) :
    ∃ r, (raise x s).step = some r ∧ r.invalid = true ∧ r.number = st.number ∧ r.applied = st.applied := by
  rw [raise_step, stepMark, State.modStep, hstep]
  exact ⟨_, rfl, by simp [h], rfl, rfl⟩

/-! ### Aborting the program (R60, R61) -/

/-- What a key reads as once every listed value has been changed: its default, or a changed value. -/
theorem Sparse.look_mapVals {α : Type} [DecidableEq α] (d : Nat → α) (f : α → α) (m : Sparse α) (k : Nat) :
    Sparse.look d (Sparse.mapVals d f m) k = d k ∨ ∃ v, Sparse.look d (Sparse.mapVals d f m) k = f v := by
  unfold Sparse.mapVals
  refine List.foldlRecOn (motive := fun r => Sparse.look d r k = d k ∨ ∃ v, Sparse.look d r k = f v) m _ (.inl rfl)
    (fun r h x _ => ?_)
  rw [Sparse.look_store_eq]
  split
  · exact .inr ⟨x.2, rfl⟩
  · exact h

/-- A core with its queues, commands, waits and epochs as at a step boundary, and its memories as they were. -/
def CoreSt.cleaned (k : CoreSt) : CoreSt :=
  { k with queues := [], stalled := none, running := [], tokens := [], blocks := [], remote := none,
           regions := Sparse.mapVals (fun _ => none) (fun x => x.map (fun r => { r with epoch := 0, owner := none })) k.regions }

/-- An update unit that holds and runs nothing. -/
def UnitSt.emptied (u : UnitSt) : UnitSt := { u with held := [], running := none }

theorem abortProgram_eq (s : State) : abortProgram s =
    { s.modStep (fun r => { r with aborted := true }) with
      cores := Sparse.mapVals (fun _ => CoreSt.empty) CoreSt.cleaned s.cores
      units := Sparse.mapVals (fun _ => UnitSt.empty) UnitSt.emptied s.units } := rfl

@[simp] theorem abortProgram_program (s : State) : (abortProgram s).program = s.program := rfl
@[simp] theorem abortProgram_mem (s : State) : (abortProgram s).mem = s.mem := rfl
@[simp] theorem abortProgram_mgmt (s : State) : (abortProgram s).mgmt = s.mgmt := rfl
@[simp] theorem abortProgram_step (s : State) : (abortProgram s).step = s.step.map (fun r => { r with aborted := true }) := rfl

/-- A core of an aborted program was never used, or has been cleaned. -/
theorem core_abortProgram (s : State) (d : CoreRef) :
    (abortProgram s).core d = CoreSt.empty ∨ ∃ k, (abortProgram s).core d = CoreSt.cleaned k :=
  Sparse.look_mapVals (fun _ => CoreSt.empty) CoreSt.cleaned s.cores (coreKey d)

theorem uu_abortProgram (s : State) (v : Nat) : (abortProgram s).uu v = UnitSt.empty ∨ ∃ u, (abortProgram s).uu v = UnitSt.emptied u :=
  Sparse.look_mapVals (fun _ => UnitSt.empty) UnitSt.emptied s.units v

/-- An aborted program has no command queued, stalled or running, and no token posted. -/
theorem idle_abortProgram (s : State) (d : CoreRef) (f : Engine) (n : Nat) :
    ((abortProgram s).core d).queue f = [] ∧ ((abortProgram s).core d).run f = none ∧ ((abortProgram s).core d).stalled = none ∧
      Sparse.look (fun _ => (0 : BitVec 16)) ((abortProgram s).core d).tokens n = 0 := by
  obtain h | ⟨k, h⟩ := core_abortProgram s d <;> rw [h] <;> exact ⟨rfl, rfl, rfl, rfl⟩

theorem region_cleaned {k : CoreSt} {m : Space} {id : Nat} {g : Region} (h : k.cleaned.region m id = some g) :
    g.epoch = 0 ∧ g.owner = none := by
  obtain hnone | ⟨x, hx⟩ := Sparse.look_mapVals (fun _ => none)
    (fun x => Option.map (fun r : Region => { r with epoch := 0, owner := none }) x) k.regions (regionKey m id)
  · exact absurd (hnone.symm.trans h) (by simp)
  · obtain ⟨r, -, rfl⟩ := Option.map_eq_some_iff.mp (hx.symm.trans h)
    exact ⟨rfl, rfl⟩

/-- Every region of an aborted program has epoch 0 and no writer. -/
theorem region_abortProgram {s : State} {d : CoreRef} {m : Space} {id : Nat} {g : Region}
    (h : ((abortProgram s).core d).region m id = some g) : g.epoch = 0 ∧ g.owner = none := by
  obtain hd | ⟨k, hd⟩ := core_abortProgram s d <;> rw [hd] at h
  · cases h
  · exact region_cleaned h

theorem uu_abortProgram_idle (s : State) (v : Nat) : ((abortProgram s).uu v).held = [] ∧ ((abortProgram s).uu v).running = none := by
  obtain h | ⟨u, h⟩ := uu_abortProgram s v <;> rw [h] <;> exact ⟨rfl, rfl⟩

/-! ### The time-out of a wait -/

/-- The record of a wait that has lasted too long (R60). -/
def timeoutCause (x : Tag × UnitId) : Cause := { code := 0x2017, unit := x.2, tag := x.1 }

/-- An unsatisfied wait of a running step aborts the program where a time limit is set (R60). -/
theorem exec_tokenTimeout {s : State} {w : WaitSite} {st : StepRun} {x : Tag × UnitId} (hstep : s.step = some st)
    (hlimit : bits (s.act Off.tokenTimeout) 0 32 ≠ 0) (hwait : waiting w s = some x) :
    exec (.tokenTimeout w) s = .next (abortProgram (raise (timeoutCause x) s)) := by
  show execTokenTimeout w s = _
  rw [execTokenTimeout, if_neg (by simp [hlimit, hstep]), hwait]
  rfl

theorem timeoutAbortsProgram : TimeoutAbortsProgram := by
  intro s w st x hstep hlimit hwait
  obtain ⟨r, hr, hinvalid, hnumber, happlied⟩ := step_raise_invalid (x := timeoutCause x) hstep (by rfl)
  refine ⟨_, exec_tokenTimeout hstep hlimit hwait, by simp, by simp, ?_, fun hroom => ?_, fun d f n => idle_abortProgram _ d f n,
    fun d m id g h => region_abortProgram h, fun v => uu_abortProgram_idle _ v⟩
  · exact ⟨{ r with aborted := true }, by simp [hr], rfl, hinvalid, hnumber, happlied⟩
  · exact ⟨_, recordOf_mem_raise _ s hroom, recordOf_code _ s, recordOf_tag _ s, recordOf_unit _ s⟩

/-- Settles O7: the post by its one equation; the time-out by what raising marks of the step and what aborting cleans. -/
theorem tokensSaturateAndTimeOut : Obligations.TokensSaturateAndTimeOut := ⟨postSaturates, timeoutAbortsProgram⟩

end Sys2Proof.Machine
end

section
/-! Powers of two against fractions, the logarithms, and the choice of an E8M0 scale (R124). -/

namespace Sys2Proof.Machine

/-! ### Fractions scaled by a power of two -/

@[simp] theorem scaleFrac_natCast (n d k : Nat) : scaleFrac n d (k : Int) = (n * 2 ^ k, d) := by
  rw [scaleFrac, if_pos (Int.natCast_nonneg k), Int.toNat_natCast]

@[simp] theorem scaleFrac_neg_natCast (n d k : Nat) : scaleFrac n d (-(k : Int)) = (n, d * 2 ^ k) := by
  cases k with
  | zero => rw [Int.natCast_zero, Int.neg_zero, Nat.pow_zero, Nat.mul_one, ← Int.natCast_zero, scaleFrac_natCast, Nat.pow_zero, Nat.mul_one]
  | succ k => rw [scaleFrac, if_neg (by omega), Int.neg_neg, Int.toNat_natCast]

/-- Every integer is a difference i − j, and 2^(i−j) is compared without division by taking 2^j to the other side. -/
theorem fracLe_scaleFrac_sub (a : Nat × Nat) (n d i j : Nat) :
    fracLe a (scaleFrac n d ((i : Int) - j)) = true ↔ a.1 * d * 2 ^ j ≤ n * 2 ^ i * a.2 := by
  obtain hle | hle := Nat.le_total j i <;> obtain ⟨k, rfl⟩ := Nat.exists_eq_add_of_le hle
  · have hexp : ((j + k : Nat) : Int) - j = k := by omega
    have hpow : n * 2 ^ (j + k) * a.2 = n * 2 ^ k * a.2 * 2 ^ j := by rw [Nat.pow_add]; ac_rfl
    rw [hexp, scaleFrac_natCast, fracLe, decide_eq_true_iff, hpow, Nat.mul_le_mul_right_iff (Nat.two_pow_pos j)]
  · have hexp : (i : Int) - (i + k : Nat) = -(k : Int) := by omega
    have hpow : a.1 * d * 2 ^ (i + k) = a.1 * (d * 2 ^ k) * 2 ^ i := by rw [Nat.pow_add]; ac_rfl
    have hside : n * 2 ^ i * a.2 = n * a.2 * 2 ^ i := by ac_rfl
    rw [hexp, scaleFrac_neg_natCast, fracLe, decide_eq_true_iff, hpow, hside, Nat.mul_le_mul_right_iff (Nat.two_pow_pos i)]

theorem exists_eq_natCast_sub (e : Int) : ∃ i j : Nat, e = (i : Int) - j :=
  ⟨e.toNat, (-e).toNat, by omega⟩

/-- A fraction beneath one power of two is beneath every higher one. -/
theorem fracLe_scaleFrac_mono {a : Nat × Nat} {n d : Nat} {e e' : Int} (h : fracLe a (scaleFrac n d e) = true) (hle : e ≤ e') :
    fracLe a (scaleFrac n d e') = true := by
  obtain ⟨i, j, rfl⟩ := exists_eq_natCast_sub e
  obtain ⟨k, hk⟩ := Int.le.dest hle
  have hexp : e' = ((i + k : Nat) : Int) - j := by omega
  rw [hexp]
  rw [fracLe_scaleFrac_sub] at h ⊢
  exact Nat.le_trans h (Nat.mul_le_mul_right _ (Nat.mul_le_mul_left _ (Nat.pow_le_pow_right Nat.two_pos (Nat.le_add_right i k))))

/-- m ≤ n / d × 2^e is m / (n / d) ≤ 2^e. -/
theorem fracLe_scaleFrac_iff_fracDiv (m : Nat × Nat) (n d : Nat) (e : Int) :
    fracLe m (scaleFrac n d e) = true ↔ fracLe (fracDiv m (n, d)) (scaleFrac 1 1 e) = true := by
  obtain ⟨i, j, rfl⟩ := exists_eq_natCast_sub e
  have hside : n * 2 ^ i * m.2 = 1 * 2 ^ i * (m.2 * n) := by rw [Nat.one_mul]; ac_rfl
  rw [fracLe_scaleFrac_sub, fracLe_scaleFrac_sub, hside, fracDiv, Nat.mul_one]

/-! ### Logarithms -/

/-- `floorLog2` is the difference of the lengths, less one where that power of two exceeds the fraction. -/
theorem floorLog2_eq_ite (n d : Nat) :
    floorLog2 n d = if d * 2 ^ n.log2 ≤ n * 2 ^ d.log2 then (n.log2 : Int) - d.log2 else (n.log2 : Int) - d.log2 - 1 := by
  unfold floorLog2
  by_cases h : 0 ≤ (n.log2 : Int) - d.log2
  · obtain ⟨k, hk⟩ := Nat.exists_eq_add_of_le (show d.log2 ≤ n.log2 by omega)
    have hexp : ((n.log2 : Int) - d.log2).toNat = k := by omega
    have hpow : d * 2 ^ n.log2 = d * 2 ^ k * 2 ^ d.log2 := by rw [hk, Nat.pow_add]; ac_rfl
    simp only [if_pos h, hexp, hpow, Nat.mul_le_mul_right_iff (Nat.two_pow_pos d.log2)]
  · obtain ⟨k, hk⟩ := Nat.exists_eq_add_of_le (show n.log2 ≤ d.log2 by omega)
    have hexp : (-((n.log2 : Int) - d.log2)).toNat = k := by omega
    have hpow : n * 2 ^ d.log2 = n * 2 ^ k * 2 ^ n.log2 := by rw [hk, Nat.pow_add]; ac_rfl
    simp only [if_neg h, hexp, hpow, Nat.mul_le_mul_right_iff (Nat.two_pow_pos n.log2)]

/-- The floor is i − j for some i and j with 2^(i−j) ≤ n / d < 2^(i+1−j). -/
theorem floorLog2_spec {n d : Nat} (hn : 0 < n) (hd : 0 < d) :
    ∃ i j : Nat, floorLog2 n d = (i : Int) - j ∧ d * 2 ^ i ≤ n * 2 ^ j ∧ n * 2 ^ j < d * 2 ^ (i + 1) := by
  rw [floorLog2_eq_ite]
  split
  case isTrue hle =>
    refine ⟨n.log2, d.log2, rfl, hle, ?_⟩
    calc n * 2 ^ d.log2 < 2 ^ (n.log2 + 1) * 2 ^ d.log2 := Nat.mul_lt_mul_of_pos_right Nat.lt_log2_self (Nat.two_pow_pos _)
      _ ≤ 2 ^ (n.log2 + 1) * d := Nat.mul_le_mul_left _ (Nat.log2_self_le (Nat.ne_of_gt hd))
      _ = d * 2 ^ (n.log2 + 1) := Nat.mul_comm _ _
  case isFalse hgt =>
    refine ⟨n.log2, d.log2 + 1, by omega, ?_, ?_⟩
    · calc d * 2 ^ n.log2 ≤ 2 ^ (d.log2 + 1) * 2 ^ n.log2 := Nat.mul_le_mul_right _ (Nat.le_of_lt Nat.lt_log2_self)
        _ ≤ 2 ^ (d.log2 + 1) * n := Nat.mul_le_mul_left _ (Nat.log2_self_le (Nat.ne_of_gt hn))
        _ = n * 2 ^ (d.log2 + 1) := Nat.mul_comm _ _
    · rw [Nat.pow_succ, Nat.pow_succ, ← Nat.mul_assoc, ← Nat.mul_assoc]
      omega

/-- The power of two at `ceilLog2` is at or above a positive fraction, and the one before is beneath it. -/
theorem fracLe_at_ceilLog2 {a : Nat × Nat} (hn : 0 < a.1) (hd : 0 < a.2) :
    fracLe a (scaleFrac 1 1 (ceilLog2 a)) = true ∧ ¬ fracLe a (scaleFrac 1 1 (ceilLog2 a - 1)) = true := by
  obtain ⟨i, j, hfloor, hlow, hhigh⟩ := floorLog2_spec hn hd
  simp only [ceilLog2, hfloor]
  split
  case isTrue htest =>
    have hexp : (i : Int) - j - 1 = (i : Int) - (j + 1 : Nat) := by omega
    have hpos : 0 < a.2 * 2 ^ i := Nat.mul_pos hd (Nat.two_pow_pos i)
    refine ⟨htest, ?_⟩
    rw [hexp, fracLe_scaleFrac_sub, Nat.mul_one, Nat.one_mul, Nat.pow_succ, ← Nat.mul_assoc, Nat.mul_comm (2 ^ i)]
    omega
  case isFalse htest =>
    have hexp : (i : Int) - j + 1 = (i + 1 : Nat) - (j : Int) := by omega
    refine ⟨?_, by rwa [Int.add_sub_cancel]⟩
    rw [hexp, fracLe_scaleFrac_sub, Nat.mul_one, Nat.one_mul, Nat.mul_comm (2 ^ (i + 1))]
    exact Nat.le_of_lt hhigh

/-- `ceilLog2` is the least exponent whose power of two is at or above a positive fraction. -/
theorem fracLe_scaleFrac_one_iff_ceilLog2_le {a : Nat × Nat} (hn : 0 < a.1) (hd : 0 < a.2) (e : Int) :
    fracLe a (scaleFrac 1 1 e) = true ↔ ceilLog2 a ≤ e := by
  obtain ⟨hfits, hbefore⟩ := fracLe_at_ceilLog2 hn hd
  refine ⟨fun h => ?_, fracLe_scaleFrac_mono hfits⟩
  exact Int.not_lt.mp fun hlt => hbefore (fracLe_scaleFrac_mono h (Int.le_sub_one_of_lt hlt))

/-! ### The E8M0 scale (R124) -/

/-- The smallest exponent that fits (R124), before it is held within the range of the codes. -/
def leastExp (q : Nat) (r m : Nat × Nat) : Int := ceilLog2 (fracDiv m (q * r.1, r.2))

/-- The code of a group that is not all zero: its least exponent held within −126 and 127, plus 127. -/
theorem e8m0For_sub_bias {q : Nat} {r m : Nat × Nat} (hm : 0 < m.1) :
    (e8m0For q r m : Int) - 127 = max (-126) (min 127 (leastExp q r m)) := by
  simp only [e8m0For, if_neg (Nat.ne_of_gt hm), leastExp]
  omega

/-- An exponent fits exactly from the least one on. -/
theorem fracLe_scaleFrac_iff_leastExp_le {q : Nat} {r m : Nat × Nat} (hq : 0 < q) (hr : 0 < r.1) (hr' : 0 < r.2) (hm : 0 < m.1) (hm' : 0 < m.2)
    (e : Int) : fracLe m (scaleFrac (q * r.1) r.2 e) = true ↔ leastExp q r m ≤ e :=
  (fracLe_scaleFrac_iff_fracDiv m (q * r.1) r.2 e).trans
    (fracLe_scaleFrac_one_iff_ceilLog2_le (Nat.mul_pos hm hr') (Nat.mul_pos hm' (Nat.mul_pos hq hr)) e)

/-- Settles O15: the selected exponent is the least one held within the range, and an exponent fits exactly from the least one on. -/
theorem e8m0ScaleIsLeast : Obligations.E8m0ScaleIsLeast := by
  intro q r m hq hr hr' hm hm'
  have hfits := fracLe_scaleFrac_iff_leastExp_le hq hr hr' hm hm'
  simp only [hfits, e8m0For_sub_bias hm]
  omega

end Sys2Proof.Machine
end

section
/-! Firmware update, commit and attestation (R562, R563, R565, R566). -/

namespace Sys2Proof.Machine

/-! ### Host writes, raised records and failed requests to host memory -/

/-- A write that is taken is carried out (R448). -/
theorem hostWrite_of_taken {s : State} {a : BarAccess} (f : State → State) (h : WriteTaken s a) : hostWrite a f s = .next (f s) := by
  obtain ⟨hreach, hawake, hlegal⟩ := h
  simp [hostWrite, hreach, hawake, hlegal]

@[simp] theorem bit_or {n : Nat} (x y : BitVec n) (i : Nat) : bit (x ||| y) i = (bit x i || bit y i) := by simp [bit]

@[simp] theorem raise_rom (x : Cause) (s : State) : (raise x s).rom = s.rom := (quiet_raise x s).rom
@[simp] theorem raise_sec (x : Cause) (s : State) : (raise x s).sec = s.sec := (quiet_raise x s).sec

theorem raised_raise (x : Cause) {s u : State} (h : u.mgmt = s.mgmt) : Raised s (raise x u) x.code :=
  fun hroom => ⟨_, recordOf_mem_raise x u (by rwa [h]), recordOf_code x u⟩

/-- One record more waits at most. -/
theorem queue_length_raise_le (x : Cause) (s : State) : (raise x s).mgmt.queue.length ≤ s.mgmt.queue.length + 1 := by
  rw [raise_mgmt]
  split
  · exact Nat.le_succ _
  · simp

/-- Logging a refused address changes registers alone (R450). -/
theorem posted_logErr (kind : Nat) (write : Bool) (code : Code) (addr : Dword) (s : State) : Posted s (logErr kind write code addr s) := by
  unfold logErr
  dsimp only
  split
  · exact posted_setReg _ _ _
  · exact (posted_setReg _ _ _).trans (posted_setReg _ _ _)

theorem quiet_hostFailure (write timeout : Bool) (a : Dword) (s : State) : Quiet s (hostFailure write timeout a s) :=
  (posted_logErr _ _ _ _ _).quiet.trans (quiet_raise _ _)

/-- Where two more records have room, one has room after a failed request (R450, R571). -/
theorem hostFailure_leaves_room {s : State} (write timeout : Bool) (a : Dword) (h : s.mgmt.queue.length + 2 ≤ 4096) :
    (hostFailure write timeout a s).mgmt.queue.length < 4096 := by
  refine Nat.lt_of_le_of_lt (queue_length_raise_le _ _) ?_
  rw [(posted_logErr _ _ _ _ _).mgmt]
  exact h

/-! ### COMMIT and GO (R562, R563) -/

/-- The fused minimum SVN becomes the greater of itself and that of the running firmware (R563). -/
theorem commitSvn_minSvn (s : State) : (commitSvn s).rom.minSvn.toNat = max s.rom.minSvn.toNat s.mgmt.runSvn.toNat := by
  simp only [commitSvn]
  split <;> omega

/-- COMMIT changes the fused minimum SVN alone. -/
theorem commitSvn_rom (s : State) : (commitSvn s).rom = { s.rom with minSvn := (commitSvn s).rom.minSvn } := rfl

@[simp] theorem refuseUpdate_rom (n : Nat) (s : State) : (refuseUpdate n s).rom = s.rom := raise_rom _ _
@[simp] theorem refuseUpdate_mem (n : Nat) (s : State) : (refuseUpdate n s).mem = s.mem := raise_mem _ _
@[simp] theorem refuseUpdate_sec (n : Nat) (s : State) : (refuseUpdate n s).sec = { s.sec with fwStatus := n } := raise_sec _ _

theorem raised_refuseUpdate (n : Nat) (s : State) : Raised s (refuseUpdate n s) 0x6004 := raised_raise { code := 0x6004, unit := unitSec } rfl

@[simp] theorem goUpdate_rom (s : State) : (goUpdate s).rom = s.rom := by
  unfold goUpdate
  split
  · exact refuseUpdate_rom 5 s
  · rfl

@[simp] theorem goUpdate_mem (s : State) : (goUpdate s).mem = s.mem := by
  unfold goUpdate
  split
  · exact refuseUpdate_mem 5 s
  · rfl

/-- What GO answers (R562). -/
theorem goUpdate_answer (s : State) :
    if s.program.isSome || s.sec.fwBusy then
      (goUpdate s).sec.fwStatus = 5 ∧ (goUpdate s).sec.fwBusy = s.sec.fwBusy ∧ Raised s (goUpdate s) 0x6004
    else (goUpdate s).sec.fwStatus = 1 ∧ (goUpdate s).sec.fwBusy = true ∧ (goUpdate s).mgmt = s.mgmt := by
  unfold goUpdate
  split
  · exact ⟨by simp, by simp, raised_refuseUpdate 5 s⟩
  · exact ⟨rfl, rfl, rfl⟩

/-- COMMIT is carried out before GO when one write sets both. -/
theorem writeFwCtl_go (v : Dword) (s : State) : writeFwCtl (v ||| 1) s = goUpdate (if bit v 1 then commitSvn s else s) := by
  have hgo : bit 1#64 0 = true := by decide
  have hcommit : bit 1#64 1 = false := by decide
  simp [writeFwCtl, hgo, hcommit]

theorem writeFwCtl_commit (v : Dword) (s : State) :
    writeFwCtl (v ||| 2) s = if bit v 0 then goUpdate (commitSvn s) else commitSvn s := by
  have hgo : bit 2#64 0 = false := by decide
  have hcommit : bit 2#64 1 = true := by decide
  simp [writeFwCtl, hgo, hcommit]

theorem exec_fwUpdateGo {v : Dword} {s : State} (h : WriteTaken s (slotWrite Off.fwCtl (v ||| 1))) :
    exec (.fwUpdateGo v) s = .next (goUpdate (if bit v 1 then commitSvn s else s)) :=
  (hostWrite_of_taken _ h).trans (congrArg _ (writeFwCtl_go v s))

theorem exec_fwCommit {v : Dword} {s : State} (h : WriteTaken s (slotWrite Off.fwCtl (v ||| 2))) :
    exec (.fwCommit v) s = .next (if bit v 0 then goUpdate (commitSvn s) else commitSvn s) :=
  (hostWrite_of_taken _ h).trans (congrArg _ (writeFwCtl_commit v s))

/-! ### The end of an update (R562) -/

/-- The state in which an update's image is judged: the update runs no more. -/
def endUpdate (s : State) : State := { s with sec := { s.sec with fwBusy := false } }

@[simp] theorem endUpdate_fwBusy (s : State) : (endUpdate s).sec.fwBusy = false := rfl
@[simp] theorem endUpdate_rom (s : State) : (endUpdate s).rom = s.rom := rfl

theorem exec_fwUpdateDone (read : HostRead) (s : State) : exec (.fwUpdateDone read) s = execFwUpdateDone read s := rfl

section
variable {s : State} (hbusy : s.sec.fwBusy = true) (hruns : s.securityRuns = true)
include hbusy hruns

theorem exec_fwUpdateDone_ok (l : List Byte) :
    exec (.fwUpdateDone (.ok l)) s = .next (takeUpdate (l.take (bits (s.reg Off.fwLen) 0 32)) (endUpdate s)) := by
  rw [exec_fwUpdateDone, execFwUpdateDone, hbusy, hruns]
  rfl

/-- A failed read of the image logs and raises the failure, and refuses the update with STATUS 6. -/
theorem exec_fwUpdateDone_failed {a : Dword} {read : HostRead} (h : read = .error a ∨ read = .timeout a) :
    ∃ timeout, exec (.fwUpdateDone read) s = .next (refuseUpdate 6 (hostFailure false timeout a (endUpdate s))) := by
  rw [exec_fwUpdateDone, execFwUpdateDone, hbusy, hruns]
  obtain rfl | rfl := h
  · exact ⟨false, rfl⟩
  · exact ⟨true, rfl⟩

end

theorem takeUpdate_accepted {l : List Byte} {s : State} (h : imageFault l s.rom = none) :
    takeUpdate l s = writeSlot s.updateSlot (imageOf l) { s with sec := { s.sec with fwStatus := 2 } } := by
  rw [takeUpdate, h]

theorem takeUpdate_refused {l : List Byte} {s : State} {code : Code} (h : imageFault l s.rom = some code) :
    takeUpdate l s = refuseUpdate (if code = 0x6002 then 4 else 3) s := by
  rw [takeUpdate, h]

theorem updateSlot_eq_ite (s : State) : s.updateSlot = if s.mgmt.boot = .recovery then s.rom.nextSlot else !s.mgmt.slotB := by
  simp [State.updateSlot]

/-- The image stands in the written slot, which boots next, and the other slot stays. -/
theorem writeSlot_slots (b : Bool) (l : List Byte) (s : State) :
    (writeSlot b l s).rom.nextSlot = b ∧ (if b then (writeSlot b l s).rom.slotB else (writeSlot b l s).rom.slotA) = l ∧
      (if b then (writeSlot b l s).rom.slotA = s.rom.slotA else (writeSlot b l s).rom.slotB = s.rom.slotB) := by
  cases b <;> exact ⟨rfl, rfl, rfl⟩

/-! ### Attestation (R565, R566) -/

theorem writeAttCtl_go (v : Dword) (s : State) :
    writeAttCtl (v ||| 1) s = if s.sec.attStatus = 1 then s else { s with sec := { s.sec with attStatus := 1, nonce := s.nonceIn } } := by
  have hgo : bit 1#64 0 = true := by decide
  by_cases hbusy : s.sec.attStatus = 1 <;> simp [writeAttCtl, hgo, hbusy]

theorem exec_attestGo {v : Dword} {s : State} (h : WriteTaken s (slotWrite Off.attCtl (v ||| 1))) :
    exec (.attestGo v) s = .next (if s.sec.attStatus = 1 then s else { s with sec := { s.sec with attStatus := 1, nonce := s.nonceIn } }) :=
  (hostWrite_of_taken _ h).trans (congrArg _ (writeAttCtl_go v s))

@[simp] theorem failAttest_rom (n : Nat) (s : State) : (failAttest n s).rom = s.rom := raise_rom _ _
@[simp] theorem failAttest_mem (n : Nat) (s : State) : (failAttest n s).mem = s.mem := raise_mem _ _
@[simp] theorem failAttest_sec (n : Nat) (s : State) : (failAttest n s).sec = { s.sec with attStatus := n } := raise_sec _ _

theorem raised_failAttest (n : Nat) (s : State) : Raised s (failAttest n s) 0x6005 := raised_raise { code := 0x6005, unit := unitSec } rfl

theorem exec_attestDone (ok : Bool) (s : State) : exec (.attestDone ok) s = execAttestDone ok s := rfl

/-- How an attestation ends: a misaligned address is found first, then the report is written or the write fails (R566). -/
theorem exec_attestDone_busy {s : State} (hbusy : s.sec.attStatus = 1) (hruns : s.securityRuns = true) (ok : Bool) :
    exec (.attestDone ok) s = .next (
      if (s.reg Off.attAddr).toNat % 64 = 0 then
        if ok then { s.emit (.host (s.reg Off.attAddr) (attestBytes s)) with sec := { s.sec with attStatus := 2 } }
        else failAttest 4 (hostFailure true false (s.reg Off.attAddr) s)
      else failAttest 3 s) := by
  rw [exec_attestDone]
  by_cases haligned : (s.reg Off.attAddr).toNat % 64 = 0
  · cases ok <;> simp [execAttestDone, hbusy, hruns, haligned]
  · simp [execAttestDone, hbusy, hruns, haligned]

/-! ### The obligation -/

/-- Settles O53: each command by its equation; GO and COMMIT by what `goUpdate` and `commitSvn` leave, the ends of an update and of
an attestation by the branch taken and by the room that a failed request leaves for the second record. -/
theorem updatesAndAttestation : Obligations.UpdatesAndAttestation := by
  intro s
  refine ⟨?go, ?commit, ?imageRead, ?readFailed, ?attestGo, ?attestDone⟩
  case go =>
    intro v hwrite
    refine ⟨_, exec_fwUpdateGo hwrite, ?_⟩
    cases bit v 1 with
    | false => exact ⟨goUpdate_mem s, fun _ => goUpdate_rom s, nofun, goUpdate_answer s⟩
    | true =>
      have hrom := goUpdate_rom (commitSvn s)
      exact ⟨goUpdate_mem (commitSvn s), nofun, fun _ => by rw [if_pos rfl, hrom, commitSvn_minSvn], goUpdate_answer (commitSvn s)⟩
  case commit =>
    intro v hwrite
    have hrom : (if bit v 0 then goUpdate (commitSvn s) else commitSvn s).rom = (commitSvn s).rom := by split <;> simp
    refine ⟨_, exec_fwCommit hwrite, ?_⟩
    rw [hrom]
    exact ⟨commitSvn_minSvn s, commitSvn_rom s, fun hgo => by simp only [hgo]; exact ⟨rfl, rfl⟩⟩
  case imageRead =>
    intro l hbusy hruns
    refine ⟨_, exec_fwUpdateDone_ok hbusy hruns l, ?_⟩
    generalize l.take _ = image
    cases hfault : imageFault image s.rom with
    | none =>
      rw [takeUpdate_accepted (s := endUpdate s) hfault, ← updateSlot_eq_ite]
      exact ⟨rfl, rfl, rfl, writeSlot_slots s.updateSlot (imageOf image) _⟩
    | some code =>
      rw [takeUpdate_refused (s := endUpdate s) hfault]
      exact ⟨by simp, by simp, by simp, by simp, raised_refuseUpdate _ (endUpdate s)⟩
  case readFailed =>
    intro a read hread hbusy hruns
    obtain ⟨timeout, hexec⟩ := exec_fwUpdateDone_failed hbusy hruns hread
    have hquiet := quiet_hostFailure false timeout a (endUpdate s)
    exact ⟨_, hexec, by simp [hquiet.sec], by simp, by simp [hquiet.rom],
      fun hroom => raised_refuseUpdate 6 _ (hostFailure_leaves_room false timeout a hroom)⟩
  case attestGo =>
    intro v hwrite
    refine ⟨_, exec_attestGo hwrite, ?_⟩
    split <;> rfl
  case attestDone =>
    intro ok hbusy hruns
    refine ⟨_, exec_attestDone_busy hbusy hruns ok, ?_⟩
    by_cases haligned : (s.reg Off.attAddr).toNat % 64 = 0
    · cases ok with
      | false =>
        have hquiet := quiet_hostFailure true false (s.reg Off.attAddr) s
        simp only [haligned, if_true, Bool.false_eq_true, if_false, and_false]
        exact ⟨by simp [hquiet.mem], by simp [hquiet.rom], by simp,
          fun hroom => raised_failAttest 4 _ (hostFailure_leaves_room true false _ hroom)⟩
      | true => simp [haligned, State.emit]
    · simp only [haligned, if_false, false_and]
      exact ⟨by simp, by simp, by simp, fun hroom => raised_failAttest 3 s (by omega)⟩

end Sys2Proof.Machine
end
